-- ==== Sys2Proof/Word.lean ====
section
/-!
DEFINITION. The word types of the hardware (`00_scope.md` R5, R8): every value is an unsigned
number of a stated width.
-/
namespace Sys2Proof

/-- One memory byte, one general register, one timer (R5: `REG_W` = `TIMER_W` = 8). -/
abbrev Byte := BitVec 8

/-- The program counter, the index register, a stack entry, an instruction word (R5, R90). -/
abbrev Half := BitVec 16

/-- The `X` or `Y` field: the index of a general register (R91). -/
abbrev RegIx := BitVec 4

/-- The `NNN` field: a 12-bit absolute byte address (R91, R93). -/
abbrev Addr := BitVec 12

/-- The `N` field: a 4-bit immediate (R91, R93). -/
abbrev Nibble := BitVec 4

end Sys2Proof
end

