-- ==== Sys2Proof/Syntax.lean ====
section
/-!
DEFINITION. The instructions (`30_encoding.md` R94), one constructor per row of
spec/opcode_table.json, in the table's order; and the lines of the assembler notation (R97, R98).
-/
namespace Sys2Proof

/-- The 34 instructions of R94. Operands are the fields of R91 at their own widths, so every term
is an instruction that an encoding exists for. -/
inductive Instr where
  /-- 00E0 -/
  | cls
  /-- 00EE -/
  | ret
  /-- 1NNN -/
  | jp (nnn : Addr)
  /-- 2NNN -/
  | call (nnn : Addr)
  /-- 3XNN -/
  | seI (x : RegIx) (nn : Byte)
  /-- 4XNN -/
  | sneI (x : RegIx) (nn : Byte)
  /-- 5XY0 -/
  | seR (x y : RegIx)
  /-- 6XNN -/
  | ldI (x : RegIx) (nn : Byte)
  /-- 7XNN -/
  | addI (x : RegIx) (nn : Byte)
  /-- 8XY0 -/
  | ldR (x y : RegIx)
  /-- 8XY1 -/
  | orR (x y : RegIx)
  /-- 8XY2 -/
  | andR (x y : RegIx)
  /-- 8XY3 -/
  | xorR (x y : RegIx)
  /-- 8XY4 -/
  | addR (x y : RegIx)
  /-- 8XY5 -/
  | sub (x y : RegIx)
  /-- 8XY6; `y` is encoded and ignored (R99) -/
  | shr (x y : RegIx)
  /-- 8XY7 -/
  | subn (x y : RegIx)
  /-- 8XYE; `y` is encoded and ignored (R99) -/
  | shl (x y : RegIx)
  /-- 9XY0 -/
  | sneR (x y : RegIx)
  /-- ANNN -/
  | ldIdx (nnn : Addr)
  /-- BNNN -/
  | jpV0 (nnn : Addr)
  /-- CXNN -/
  | rnd (x : RegIx) (nn : Byte)
  /-- DXYN -/
  | drw (x y : RegIx) (n : Nibble)
  /-- EX9E -/
  | skp (x : RegIx)
  /-- EXA1 -/
  | sknp (x : RegIx)
  /-- FX07 -/
  | ldGdt (x : RegIx)
  /-- FX0A -/
  | ldKey (x : RegIx)
  /-- FX15 -/
  | ldSdt (x : RegIx)
  /-- FX18 -/
  | ldSst (x : RegIx)
  /-- FX1E -/
  | addIdx (x : RegIx)
  /-- FX29 -/
  | ldFont (x : RegIx)
  /-- FX33 -/
  | ldBcd (x : RegIx)
  /-- FX55 -/
  | stRegs (x : RegIx)
  /-- FX65 -/
  | ldRegs (x : RegIx)
  deriving DecidableEq, Repr

/-- The mnemonic of an instruction's row in R94 and spec/opcode_table.json. -/
def Instr.mnemonic : Instr → String
  | .cls => "CLS"
  | .ret => "RET"
  | .jp _ => "JP"
  | .call _ => "CALL"
  | .seI _ _ => "SE.I"
  | .sneI _ _ => "SNE.I"
  | .seR _ _ => "SE.R"
  | .ldI _ _ => "LD.I"
  | .addI _ _ => "ADD.I"
  | .ldR _ _ => "LD.R"
  | .orR _ _ => "OR"
  | .andR _ _ => "AND"
  | .xorR _ _ => "XOR"
  | .addR _ _ => "ADD.R"
  | .sub _ _ => "SUB"
  | .shr _ _ => "SHR"
  | .subn _ _ => "SUBN"
  | .shl _ _ => "SHL"
  | .sneR _ _ => "SNE.R"
  | .ldIdx _ => "LD.IDX"
  | .jpV0 _ => "JP.V0"
  | .rnd _ _ => "RND"
  | .drw _ _ _ => "DRW"
  | .skp _ => "SKP"
  | .sknp _ => "SKNP"
  | .ldGdt _ => "LD.GDT"
  | .ldKey _ => "LD.KEY"
  | .ldSdt _ => "LD.SDT"
  | .ldSst _ => "LD.SST"
  | .addIdx _ => "ADD.IDX"
  | .ldFont _ => "LD.FONT"
  | .ldBcd _ => "LD.BCD"
  | .stRegs _ => "ST.REGS"
  | .ldRegs _ => "LD.REGS"

/-- The mnemonic words of the assembler notation (R97), before an operand shape resolves them. -/
inductive AsmWord where
  | cls | ret | jp | call | se | sne | ld | add | or | and | xor | sub | shr | subn | shl | rnd
  | drw | skp | sknp
  deriving DecidableEq, Repr

/-- An operand of an assembler line (R97): a register name, a numeral of any size, or one of the
reserved names. `V0` of `JP V0, nnn` is the register name with number 0. -/
inductive AsmOperand where
  /-- `V0` to `VF` when the number is below 16 -/
  | reg (r : Nat)
  | num (n : Nat)
  /-- `I` -/
  | idx
  /-- `DT` -/
  | dt
  /-- `ST` -/
  | st
  /-- `K` -/
  | key
  /-- `F` -/
  | font
  /-- `B` -/
  | bcd
  /-- `[I]` -/
  | atIdx
  deriving DecidableEq, Repr

/-- One assembler line: a mnemonic word and its operands, not yet checked. -/
structure AsmLine where
  word : AsmWord
  args : List AsmOperand
  deriving DecidableEq, Repr

/-- One item of an assembler program (R97, R98): an instruction line, `DB` or `DW`. -/
inductive AsmItem where
  | line (l : AsmLine)
  | db (bytes : List Nat)
  | dw (w : Nat)
  deriving DecidableEq, Repr

end Sys2Proof
end

