-- ==== Sys2Proof/WellFormed.lean ====
section
/-!
DEFINITION. Well-formedness. An `Instr` has no ill-formed term: each operand type holds exactly the
values its field admits (R91, R93: all sixteen register indices, every immediate). What can be
ill-formed is the assembler notation (R97), whose register numbers and numerals are unbounded and
whose operands may have a shape no row has: these are the checks below.
-/
namespace Sys2Proof

/-- What an operand place of an assembler form accepts (R97). -/
inductive OperandShape where
  /-- `Vx` or `Vy` -/
  | reg
  /-- the reserved name `V0` of `JP V0, nnn` -/
  | regZero
  /-- `n`, 4 bits -/
  | imm4
  /-- `nn`, 8 bits -/
  | imm8
  /-- `nnn`, 12 bits -/
  | imm12
  /-- one of the reserved names -/
  | name (o : AsmOperand)
  deriving DecidableEq, Repr

/-- An operand fits its place: numerals "must fit 8, 12 and 4 bits (an assembler refuses one that
does not fit; it never truncates)" (R97). -/
def OperandShape.accepts : OperandShape → AsmOperand → Bool
  | .reg, .reg r => decide (r < 16)
  | .regZero, .reg r => decide (r = 0)
  | .imm4, .num n => decide (n < 16)
  | .imm8, .num n => decide (n < 256)
  | .imm12, .num n => decide (n < 4096)
  | .name o, p => decide (o = p)
  | _, _ => false

/-- The operand forms of each mnemonic word (R97). -/
def AsmWord.forms : AsmWord → List (List OperandShape)
  | .cls => [[]]
  | .ret => [[]]
  | .jp => [[.imm12], [.regZero, .imm12]]
  | .call => [[.imm12]]
  | .se => [[.reg, .imm8], [.reg, .reg]]
  | .sne => [[.reg, .imm8], [.reg, .reg]]
  | .ld => [[.reg, .imm8], [.reg, .reg], [.name .idx, .imm12], [.reg, .name .dt],
      [.reg, .name .key], [.name .dt, .reg], [.name .st, .reg], [.name .font, .reg],
      [.name .bcd, .reg], [.name .atIdx, .reg], [.reg, .name .atIdx]]
  | .add => [[.reg, .imm8], [.reg, .reg], [.name .idx, .reg]]
  | .or => [[.reg, .reg]]
  | .and => [[.reg, .reg]]
  | .xor => [[.reg, .reg]]
  | .sub => [[.reg, .reg]]
  | .shr => [[.reg], [.reg, .reg]]
  | .subn => [[.reg, .reg]]
  | .shl => [[.reg], [.reg, .reg]]
  | .rnd => [[.reg, .imm8]]
  | .drw => [[.reg, .reg, .imm4]]
  | .skp => [[.reg]]
  | .sknp => [[.reg]]

/-- The operands of a line fill the places of a form, one each. -/
def fitsForm : List OperandShape → List AsmOperand → Bool
  | [], [] => true
  | f :: fs, a :: as => f.accepts a && fitsForm fs as
  | _, _ => false

/-- A line is well formed when some form of its word takes its operands (R97). -/
def AsmLine.wellFormed (l : AsmLine) : Bool :=
  l.word.forms.any fun f => fitsForm f l.args

/-- An item is well formed when its line is, or its data fit bytes (`DB`) or a word (`DW`) (R98). -/
def AsmItem.wellFormed : AsmItem → Bool
  | .line l => l.wellFormed
  | .db bs => bs.all fun b => decide (b < 256)
  | .dw w => decide (w < 65536)

end Sys2Proof
end

