-- ==== Sys2Proof/Decode.lean ====
section
/-!
DEFINITION. Decoding and encoding (`30_encoding.md`). `decode` follows the two-level scheme of R94
(the leading nibble selects the family, then fixed low bits match exactly); `opcodeTable` is the
mask and match table of R94; `encode` is written from the same table.
-/
namespace Sys2Proof

/-! ## Fields (R91) -/

/-- `OP` = `w[15:12]`. -/
def opOf (w : Half) : Nibble := w.extractLsb' 12 4

/-- `X` = `w[11:8]`. -/
def xOf (w : Half) : RegIx := w.extractLsb' 8 4

/-- `Y` = `w[7:4]`. -/
def yOf (w : Half) : RegIx := w.extractLsb' 4 4

/-- `N` = `w[3:0]`. -/
def nOf (w : Half) : Nibble := w.extractLsb' 0 4

/-- `NN` = `w[7:0]`. -/
def nnOf (w : Half) : Byte := w.extractLsb' 0 8

/-- `NNN` = `w[11:0]`. -/
def nnnOf (w : Half) : Addr := w.extractLsb' 0 12

/-! ## The decoder -/

/-- Family 0: only the words 00E0 and 00EE (R94, R95). -/
def decode0 (w : Half) : Option Instr :=
  if w = 0x00E0#16 then some .cls else if w = 0x00EE#16 then some .ret else none

/-- Families 5 and 9: the low nibble must be 0 (R94, R95). -/
def decodeXY0 (w : Half) (i : RegIx → RegIx → Instr) : Option Instr :=
  if nOf w = 0x0#4 then some (i (xOf w) (yOf w)) else none

/-- Family 8: the low nibble selects the operation (R94, R95). -/
def decode8 (w : Half) : Option Instr :=
  match (nOf w).toNat with
  | 0x0 => some (.ldR (xOf w) (yOf w))
  | 0x1 => some (.orR (xOf w) (yOf w))
  | 0x2 => some (.andR (xOf w) (yOf w))
  | 0x3 => some (.xorR (xOf w) (yOf w))
  | 0x4 => some (.addR (xOf w) (yOf w))
  | 0x5 => some (.sub (xOf w) (yOf w))
  | 0x6 => some (.shr (xOf w) (yOf w))
  | 0x7 => some (.subn (xOf w) (yOf w))
  | 0xE => some (.shl (xOf w) (yOf w))
  | _ => none

/-- Family E: the low byte must be 9E or A1 (R94, R95). -/
def decodeE (w : Half) : Option Instr :=
  if nnOf w = 0x9E#8 then some (.skp (xOf w))
  else if nnOf w = 0xA1#8 then some (.sknp (xOf w))
  else none

/-- Family F: the low byte selects the operation (R94, R95). -/
def decodeF (w : Half) : Option Instr :=
  if nnOf w = 0x07#8 then some (.ldGdt (xOf w))
  else if nnOf w = 0x0A#8 then some (.ldKey (xOf w))
  else if nnOf w = 0x15#8 then some (.ldSdt (xOf w))
  else if nnOf w = 0x18#8 then some (.ldSst (xOf w))
  else if nnOf w = 0x1E#8 then some (.addIdx (xOf w))
  else if nnOf w = 0x29#8 then some (.ldFont (xOf w))
  else if nnOf w = 0x33#8 then some (.ldBcd (xOf w))
  else if nnOf w = 0x55#8 then some (.stRegs (xOf w))
  else if nnOf w = 0x65#8 then some (.ldRegs (xOf w))
  else none

/-- The instruction a word selects, or none when the word is unrecognized (R94, R95, R99). -/
def decode (w : Half) : Option Instr :=
  match (opOf w).toNat with
  | 0x0 => decode0 w
  | 0x1 => some (.jp (nnnOf w))
  | 0x2 => some (.call (nnnOf w))
  | 0x3 => some (.seI (xOf w) (nnOf w))
  | 0x4 => some (.sneI (xOf w) (nnOf w))
  | 0x5 => decodeXY0 w .seR
  | 0x6 => some (.ldI (xOf w) (nnOf w))
  | 0x7 => some (.addI (xOf w) (nnOf w))
  | 0x8 => decode8 w
  | 0x9 => decodeXY0 w .sneR
  | 0xA => some (.ldIdx (nnnOf w))
  | 0xB => some (.jpV0 (nnnOf w))
  | 0xC => some (.rnd (xOf w) (nnOf w))
  | 0xD => some (.drw (xOf w) (yOf w) (nOf w))
  | 0xE => decodeE w
  | _ => decodeF w

/-- Why a byte sequence is not an instruction. -/
inductive DecodeReject where
  /-- fewer than the two bytes every instruction has (R90) -/
  | truncated
  /-- the word matches no row of R94 (R95) -/
  | unrecognized (w : Half)
  deriving DecidableEq, Repr

/-- The word of two bytes, the byte at the lower address first (R62). -/
def wordOf (hi lo : Byte) : Half := hi ++ lo

/-- Decoding of any bytes, total: the instruction and the bytes after it, or the named reason. -/
def decodeBytes : List Byte → Except DecodeReject (Instr × List Byte)
  | hi :: lo :: rest =>
    match decode (wordOf hi lo) with
    | some i => .ok (i, rest)
    | none => .error (.unrecognized (wordOf hi lo))
  | _ => .error .truncated

/-! ## The encoder (R94, R97) -/

/-- Format XY (R92). -/
def packXY (op : Nibble) (x y : RegIx) (fn : Nibble) : Half := op ++ x ++ y ++ fn

/-- Formats XI and XF (R92). -/
def packXI (op : Nibble) (x : RegIx) (nn : Byte) : Half := op ++ x ++ nn

/-- Format A (R92). -/
def packA (op : Nibble) (nnn : Addr) : Half := op ++ nnn

/-- The word of an instruction (R94). -/
def encode : Instr → Half
  | .cls => 0x00E0#16
  | .ret => 0x00EE#16
  | .jp nnn => packA 0x1#4 nnn
  | .call nnn => packA 0x2#4 nnn
  | .seI x nn => packXI 0x3#4 x nn
  | .sneI x nn => packXI 0x4#4 x nn
  | .seR x y => packXY 0x5#4 x y 0x0#4
  | .ldI x nn => packXI 0x6#4 x nn
  | .addI x nn => packXI 0x7#4 x nn
  | .ldR x y => packXY 0x8#4 x y 0x0#4
  | .orR x y => packXY 0x8#4 x y 0x1#4
  | .andR x y => packXY 0x8#4 x y 0x2#4
  | .xorR x y => packXY 0x8#4 x y 0x3#4
  | .addR x y => packXY 0x8#4 x y 0x4#4
  | .sub x y => packXY 0x8#4 x y 0x5#4
  | .shr x y => packXY 0x8#4 x y 0x6#4
  | .subn x y => packXY 0x8#4 x y 0x7#4
  | .shl x y => packXY 0x8#4 x y 0xE#4
  | .sneR x y => packXY 0x9#4 x y 0x0#4
  | .ldIdx nnn => packA 0xA#4 nnn
  | .jpV0 nnn => packA 0xB#4 nnn
  | .rnd x nn => packXI 0xC#4 x nn
  | .drw x y n => packXY 0xD#4 x y n
  | .skp x => packXI 0xE#4 x 0x9E#8
  | .sknp x => packXI 0xE#4 x 0xA1#8
  | .ldGdt x => packXI 0xF#4 x 0x07#8
  | .ldKey x => packXI 0xF#4 x 0x0A#8
  | .ldSdt x => packXI 0xF#4 x 0x15#8
  | .ldSst x => packXI 0xF#4 x 0x18#8
  | .addIdx x => packXI 0xF#4 x 0x1E#8
  | .ldFont x => packXI 0xF#4 x 0x29#8
  | .ldBcd x => packXI 0xF#4 x 0x33#8
  | .stRegs x => packXI 0xF#4 x 0x55#8
  | .ldRegs x => packXI 0xF#4 x 0x65#8

/-- The two bytes of a word as memory holds them, high byte first (R62, R97). -/
def wordBytes (w : Half) : List Byte := [w.extractLsb' 8 8, w.extractLsb' 0 8]

/-- The bytes of an instruction. -/
def encodeBytes (i : Instr) : List Byte := wordBytes (encode i)

/-! ## The decode table (R94) -/

/-- One row of R94: a word `w` selects it when `w & mask == value`. -/
structure OpRow where
  mnemonic : String
  mask : Half
  value : Half
  deriving DecidableEq, Repr

/-- Rows 1 to 7 of R94. -/
def opRows1 : List OpRow :=
  [⟨"CLS", 0xFFFF, 0x00E0⟩, ⟨"RET", 0xFFFF, 0x00EE⟩, ⟨"JP", 0xF000, 0x1000⟩,
   ⟨"CALL", 0xF000, 0x2000⟩, ⟨"SE.I", 0xF000, 0x3000⟩, ⟨"SNE.I", 0xF000, 0x4000⟩,
   ⟨"SE.R", 0xF00F, 0x5000⟩]

/-- Rows 8 to 18 of R94. -/
def opRows2 : List OpRow :=
  [⟨"LD.I", 0xF000, 0x6000⟩, ⟨"ADD.I", 0xF000, 0x7000⟩, ⟨"LD.R", 0xF00F, 0x8000⟩,
   ⟨"OR", 0xF00F, 0x8001⟩, ⟨"AND", 0xF00F, 0x8002⟩, ⟨"XOR", 0xF00F, 0x8003⟩,
   ⟨"ADD.R", 0xF00F, 0x8004⟩, ⟨"SUB", 0xF00F, 0x8005⟩, ⟨"SHR", 0xF00F, 0x8006⟩,
   ⟨"SUBN", 0xF00F, 0x8007⟩, ⟨"SHL", 0xF00F, 0x800E⟩]

/-- Rows 19 to 25 of R94. -/
def opRows3 : List OpRow :=
  [⟨"SNE.R", 0xF00F, 0x9000⟩, ⟨"LD.IDX", 0xF000, 0xA000⟩, ⟨"JP.V0", 0xF000, 0xB000⟩,
   ⟨"RND", 0xF000, 0xC000⟩, ⟨"DRW", 0xF000, 0xD000⟩, ⟨"SKP", 0xF0FF, 0xE09E⟩,
   ⟨"SKNP", 0xF0FF, 0xE0A1⟩]

/-- Rows 26 to 34 of R94. -/
def opRows4 : List OpRow :=
  [⟨"LD.GDT", 0xF0FF, 0xF007⟩, ⟨"LD.KEY", 0xF0FF, 0xF00A⟩, ⟨"LD.SDT", 0xF0FF, 0xF015⟩,
   ⟨"LD.SST", 0xF0FF, 0xF018⟩, ⟨"ADD.IDX", 0xF0FF, 0xF01E⟩, ⟨"LD.FONT", 0xF0FF, 0xF029⟩,
   ⟨"LD.BCD", 0xF0FF, 0xF033⟩, ⟨"ST.REGS", 0xF0FF, 0xF055⟩, ⟨"LD.REGS", 0xF0FF, 0xF065⟩]

/-- The table of R94, in its order. -/
def opcodeTable : List OpRow := opRows1 ++ opRows2 ++ opRows3 ++ opRows4

/-- `w & mask == match` (R94). -/
def OpRow.selects (r : OpRow) (w : Half) : Bool := w &&& r.mask == r.value

/-! ## The numbering of spec/opcode_table.json -/

/-- The bytes of an instruction whose bits the table numbers as `w`: one 16-bit word, bit 0 its
least significant bit, stored high byte first (R62); bits from `nbits` up are 0. -/
def tableBytes (nbits w : Nat) : List Byte := wordBytes (BitVec.ofNat 16 (w % 2 ^ nbits))

/-- The instruction the decoder reads from the table's word `w` of `nbits` bits. -/
def decodeTableWord (nbits w : Nat) : Option Instr :=
  match decodeBytes (tableBytes nbits w) with
  | .ok (i, _) => some i
  | .error _ => none

end Sys2Proof
end

