-- ==== Sys2Proof/Config.lean ====
section
/-!
DEFINITION. The open parameters of the hardware (`00_scope.md` R6). Each is an opaque constant:
nothing in Lean can evaluate it, so a theorem about the machine holds for every value of it.
-/
namespace Sys2Proof

/-- `FONT` (R6, R76, D30; log entry 3): byte `a` of the font, for 0 <= `a` <= 79. The model never
applies it to a larger number. -/
opaque Config.font : Nat → Byte

/-- `rnd` (R190, D14; log entry 5): the byte that the `n`-th draw supplies, a free value. -/
opaque Config.rnd : Nat → Byte

/-- `keysel` (R194, D8; log entry 6): the input source's answer to the `n`-th draw, a free value.
The machine reduces it to a position in the list of pressed keys, so it names some pressed key
and every pressed key is possible. -/
opaque Config.keysel : Nat → Nat

/-- `REDRAW_AT_RESET` (R31, R36, D16; log entry 4): the redraw flag right after a `Reset`. -/
opaque Config.redrawAtReset : Bool

end Sys2Proof
end

