-- ==== Sys2Proof/Machine/State.lean ====
section
/-!
DEFINITION. The machine's state (`10_state.md` R20: exactly twelve elements), the model's draw
counter, the state after reset (R36), and the reasons a step can stop.
-/
namespace Sys2Proof.Machine

/-- Why the model stops. Every fault the spec describes is TAKEN (a next state with the latch
written, R221), so none of them is here. -/
inductive Fault where
  /-- Raised by `execCall` and `execRet` in a state whose stack pointer is 17 to 31, values that
  "never occur" (R39; log entry 8). Safe: the machine stops where the spec gives no behaviour, and
  no run reaches such a state. -/
  | stackPointerIllegal
  deriving DecidableEq, Repr

/-- Why an instruction has no meaning. -/
inductive Refusal where
  /-- Raised by an arm of `exec` whose instruction is not modelled yet. Safe. No arm uses it. -/
  | notModelled (mnemonic : String)
  deriving DecidableEq, Repr

/-- The causes of a terminal fault (R211). -/
inductive Cause where
  | stackOverflow | stackUnderflow | fetchRange | memRange | fontWrite | keyRange | romLoadFailure
  deriving DecidableEq, Repr

/-- What a check raises: a cause and the value reported with it (R211). -/
structure Raise where
  cause : Cause
  info : Nat
  deriving DecidableEq, Repr

/-- The display bitmap (R29): 32 rows of 64 cells. -/
abbrev Display := Vector (Vector Bool 64) 32

/-- The register file (R21). -/
abbrev Regs := Vector Byte 16

/-- The state of the core (R20). -/
@[ext]
structure State where
  /-- `mem` (R32): the bytes that differ from the reset contents, by rising address -/
  mem : List Host.Cell
  /-- `V[0]` to `V[15]` (R21, R22) -/
  v : Vector Byte 16
  /-- the index register `I` (R23) -/
  i : Half
  /-- the program counter (R24) -/
  pc : Half
  /-- the call stack (R25) -/
  stack : Vector Half 16
  /-- the stack pointer `SP`, a count (R26) -/
  sp : BitVec 5
  /-- the delay timer `DT` (R27) -/
  dt : Byte
  /-- the sound timer `ST` (R28) -/
  st : Byte
  /-- the display, `disp[row][col]` (R29) -/
  disp : Vector (Vector Bool 64) 32
  /-- the keyboard latch (R30) -/
  key : Vector Bool 16
  /-- the redraw flag (R31) -/
  redraw : Bool
  /-- the fault latch, a code of R211 or 0 (R33) -/
  fault : BitVec 3
  /-- the MODEL's own: how many free values have been drawn (R34; log entry 7) -/
  draws : Nat
  deriving DecidableEq, Repr

/-- The launch state: the state after a `Reset` with the empty ROM image (R36, R250, R251; log
entry 10), every key released (log entry 2) and nothing drawn yet (log entry 7). -/
def State.reset : State where
  mem := []
  v := Vector.replicate 16 0x00#8
  i := 0x0000#16
  pc := 0x0200#16
  stack := Vector.replicate 16 0x0000#16
  sp := 0#5
  dt := 0x00#8
  st := 0x00#8
  disp := Vector.replicate 32 (Vector.replicate 64 false)
  key := Vector.replicate 16 false
  redraw := Config.redrawAtReset
  fault := 0#3
  draws := 0

end Sys2Proof.Machine
end

