-- ==== Sys2Proof/Machine/Ops.lean ====
section
/-!
DEFINITION. The named operations over memory, registers, stack, display and keys; taking a fault and
leaving it by `Reset`; the instruction fetch.
-/
namespace Sys2Proof.Machine

/-! ## Memory (`20_memory.md`) -/

/-- What an address reads as when nothing differs from the reset contents with an empty ROM image:
the font, then zero (R36, R61, R76; log entry 9). -/
def Memory.unlisted (a : Nat) : Byte :=
  if a ≤ 0x04F then Config.font a else 0x00#8

/-- The byte at address `a`. -/
def Memory.read : List Host.Cell → Nat → Byte
  | [], a => Memory.unlisted a
  | c :: m, a => if c.1 = a then c.2 else Memory.read m a

/-- Puts a cell in its place by rising address. -/
def Memory.insert (c : Host.Cell) : List Host.Cell → List Host.Cell
  | [] => [c]
  | d :: m => if c.1 < d.1 then c :: d :: m else d :: Memory.insert c m

/-- Memory after the byte `b` is stored at `a`; a byte equal to what the address reads as unlisted
is not listed. -/
def Memory.write (m : List Host.Cell) (a : Nat) (b : Byte) : List Host.Cell :=
  if b = Memory.unlisted a then m.filter fun c => c.1 ≠ a
  else Memory.insert (a, b) (m.filter fun c => c.1 ≠ a)

/-- The canonical form: addresses strictly rising and in range (R60), no byte equal to what its
address reads as unlisted. -/
def Memory.wf : List Host.Cell → Bool
  | [] => true
  | c :: m => decide (c.1 ≤ 0xFFF) && decide (c.2 ≠ Memory.unlisted c.1) &&
      m.all (fun d => decide (c.1 < d.1)) && Memory.wf m

/-- No byte of the font range differs from `FONT` (R37 (d)). -/
def Memory.fontIntact (m : List Host.Cell) : Bool := m.all fun c => decide (0x04F < c.1)

/-- One-byte stores at ascending addresses from `a` (R63). -/
def Memory.store (m : List Host.Cell) : Nat → List Byte → List Host.Cell
  | _, [] => m
  | a, b :: bs => Memory.store (Memory.write m a b) (a + 1) bs

/-- One-byte reads of `n` ascending addresses from `a` (R63). -/
def Memory.load (m : List Host.Cell) (a n : Nat) : List Byte :=
  (List.range n).map fun k => Memory.read m (a + k)

/-! ## Field updates -/

/-- Replaces memory. -/
def State.setMem (s : State) (m : List Host.Cell) : State := { s with mem := m }

/-- Replaces the register file. -/
def State.setRegs (s : State) (v : Regs) : State := { s with v := v }

/-- `I <- a` (R23). -/
def State.setI (s : State) (a : Half) : State := { s with i := a }

/-- `pc <- a` (R24). -/
def State.setPc (s : State) (a : Half) : State := { s with pc := a }

/-- Replaces the call stack. -/
def State.setStack (s : State) (k : Vector Half 16) : State := { s with stack := k }

/-- Replaces the stack pointer. -/
def State.setSp (s : State) (n : BitVec 5) : State := { s with sp := n }

/-- `DT <- b` (R27). -/
def State.setDt (s : State) (b : Byte) : State := { s with dt := b }

/-- `ST <- b` (R28). -/
def State.setSt (s : State) (b : Byte) : State := { s with st := b }

/-- Replaces the display. -/
def State.setDisp (s : State) (d : Display) : State := { s with disp := d }

/-- Replaces the keyboard latch. -/
def State.setKey (s : State) (k : Vector Bool 16) : State := { s with key := k }

/-- `redraw <- b` (R31). -/
def State.setRedraw (s : State) (b : Bool) : State := { s with redraw := b }

/-- `fault <- c` (R33). -/
def State.setFault (s : State) (c : BitVec 3) : State := { s with fault := c }

/-- One free value has been drawn (log entry 7). -/
def State.drawn (s : State) : State := { s with draws := s.draws + 1 }

/-! ## Registers (R21, R22) -/

/-- `V[x]`. -/
def State.reg (s : State) (x : RegIx) : Byte := s.v[x.toNat]'x.isLt

/-- `V[x] <- b`. -/
def State.setReg (s : State) (x : RegIx) (b : Byte) : State :=
  s.setRegs (s.v.set x.toNat b x.isLt)

/-- `V[15] <- f`, the flag (R22). -/
def State.setVF (s : State) (f : Byte) : State := s.setReg 0xF#4 f

/-- Writes bytes to ascending registers from `V[k]` (R165). -/
def Regs.fill (v : Regs) : Nat → List Byte → Regs
  | _, [] => v
  | k, b :: bs => Regs.fill (v.setIfInBounds k b) (k + 1) bs

/-! ## The program counter (R24, R120) -/

/-- `pc <- pc + 2`, the default effect (R120). -/
def State.advance (s : State) : State := s.setPc (s.pc + 2#16)

/-- `if c then pc <- pc + 4 else pc <- pc + 2` (R124 to R127, R191, R192). -/
def State.skipIf (s : State) (c : Bool) : State := s.setPc (if c then s.pc + 4#16 else s.pc + 2#16)

/-! ## The call stack (R25, R26) -/

/-- `stack[SP] <- a; SP <- SP + 1` (R123). -/
def State.push (s : State) (a : Half) : State :=
  (s.setStack (s.stack.setIfInBounds s.sp.toNat a)).setSp (s.sp + 1#5)

/-- The entry that a return pops: `stack[SP - 1]` (R121). Used only when `SP` is 1 to 16, where the
entry exists. -/
def State.top (s : State) : Half := s.stack[s.sp.toNat - 1]?.getD 0x0000#16

/-- `SP <- SP - 1` (R121); the entry keeps its value (R25). -/
def State.pop (s : State) : State := s.setSp (s.sp - 1#5)

/-! ## The display (R29, R180) -/

/-- `disp[row mod 32][col mod 64]`. -/
def Display.cell (d : Display) (row col : Nat) : Bool :=
  (d[row % 32]'(Nat.mod_lt _ (by decide)))[col % 64]'(Nat.mod_lt _ (by decide))

/-- `disp[row mod 32][col mod 64] <- b`. -/
def Display.setCell (d : Display) (row col : Nat) (b : Bool) : Display :=
  d.set (row % 32)
    ((d[row % 32]'(Nat.mod_lt _ (by decide))).set (col % 64) b (Nat.mod_lt _ (by decide)))
    (Nat.mod_lt _ (by decide))

/-- Every cell 0. -/
def Display.blank : Display := Vector.replicate 32 (Vector.replicate 64 false)

/-- The running values of a draw (R182): the display, `collision`, `changed`. -/
structure Scan where
  disp : Display
  collision : Bool
  changed : Bool
  deriving DecidableEq, Repr

/-- The body of the inner loop of R182: one sprite bit on one cell. -/
def Scan.plot (a : Scan) (row col : Nat) (bit : Bool) : Scan where
  disp := Display.setCell a.disp row col (Display.cell a.disp row col ^^ bit)
  collision := a.collision || (Display.cell a.disp row col && bit)
  changed := a.changed || bit

/-- One sprite row: eight columns from `x0`, the most significant bit first (R180, R182). -/
def Scan.row (a : Scan) (x0 row : Nat) (b : Byte) : Scan :=
  (List.range 8).foldl (fun a c => a.plot row (x0 + c) (b.getLsbD (7 - c))) a

/-- The outer loop of R182: sprite bytes on ascending rows from `row`. -/
def Scan.sprite (x0 : Nat) : Nat → List Byte → Scan → Scan
  | _, [], a => a
  | row, b :: bs, a => Scan.sprite x0 (row + 1) bs (a.row x0 row b)

/-! ## The keyboard latch (R30) -/

/-- `key[k]`, for a key number 0 to 15. -/
def State.keyDown (s : State) (k : Nat) : Bool := s.key[k]?.getD false

/-- The set `S` of pressed keys (R194), by rising number. -/
def State.pressed (s : State) : List Nat := (List.range 16).filter s.keyDown

/-! ## Free values (R190, R194) -/

/-- `draw rnd` (R190; log entry 5). -/
def State.drawRnd (s : State) : Byte := Config.rnd s.draws

/-- `draw keysel(S)` for `S` = `k :: ks` (R194; log entry 6): some member of `S`. -/
def State.drawKey (s : State) (k : Nat) (ks : List Nat) : Nat :=
  (k :: ks)[Config.keysel s.draws % (ks.length + 1)]?.getD k

/-! ## Faults (R211, R221) -/

/-- The code a cause leaves in the fault latch (R211). -/
def Cause.code : Cause → BitVec 3
  | .stackOverflow => 1#3
  | .stackUnderflow => 2#3
  | .fetchRange => 3#3
  | .memRange => 4#3
  | .fontWrite => 5#3
  | .keyRange => 6#3
  | .romLoadFailure => 7#3

/-- TAKING A FAULT (R221): the latch is set and nothing else changes. -/
def State.raise (s : State) (c : Cause) : State := s.setFault c.code

/-- An image of 0 to 3584 bytes is valid; an absent or longer one is not (R251, R252). -/
def validRom : Option (List Byte) → Option (List Byte)
  | some bytes => if bytes.length ≤ 3584 then some bytes else none
  | none => none

/-- `Reset(rom)` (R250), the only way out of a fault (R223): every element but `key` is initialised
(D18); the random source is not touched (R34). -/
def State.resetWith (s : State) (rom : Option (List Byte)) : State where
  mem := Memory.store [] 0x200 ((validRom rom).getD [])
  v := Vector.replicate 16 0x00#8
  i := 0x0000#16
  pc := 0x0200#16
  stack := Vector.replicate 16 0x0000#16
  sp := 0#5
  dt := 0x00#8
  st := 0x00#8
  disp := Display.blank
  key := s.key
  redraw := Config.redrawAtReset
  fault := if (validRom rom).isSome then 0#3 else Cause.romLoadFailure.code
  draws := s.draws

/-- What a passed or failed check does to the step: take the fault, or go on to `t`. All checks
precede all writes (R221, D12). -/
def State.guarded (s : State) (check : Option Raise) (t : State) : Host.Outcome State Fault Refusal :=
  match check with
  | some r => .next (s.raise r.cause)
  | none => .next t

/-- Stops in a state whose stack pointer is no count of saved addresses (log entry 8). -/
def State.withLegalSp (s : State) (o : Host.Outcome State Fault Refusal) :
    Host.Outcome State Fault Refusal :=
  if s.sp.toNat ≤ 16 then o else .fault .stackPointerIllegal

/-! ### The checks (R211) -/

/-- 2NNN (R123, R213). -/
def State.callCheck (s : State) : Option Raise :=
  if s.sp.toNat = 16 then some ⟨.stackOverflow, s.pc.toNat⟩ else none

/-- 00EE (R121, R214). -/
def State.retCheck (s : State) : Option Raise :=
  if s.sp.toNat = 0 then some ⟨.stackUnderflow, s.pc.toNat⟩ else none

/-- A data read of `n` bytes from `I` (R65): the last address is in range. -/
def State.readCheck (s : State) (n : Nat) : Option Raise :=
  if 1 ≤ n ∧ s.i.toNat + n - 1 > 0xFFF then some ⟨.memRange, s.i.toNat + n - 1⟩ else none

/-- A data write of `n` >= 1 bytes from `I` (R66): not in the font, the last address in range. -/
def State.writeCheck (s : State) (n : Nat) : Option Raise :=
  if s.i.toNat ≤ 0x04F then some ⟨.fontWrite, s.i.toNat⟩ else s.readCheck n

/-- EX9E, EXA1 (R191, R192): the key number is 0 to 15. -/
def State.keyCheck (s : State) (x : RegIx) : Option Raise :=
  if (s.reg x).toNat > 0x0F then some ⟨.keyRange, (s.reg x).toNat⟩ else none

/-! ## The fetch (R62, R67, R90) -/

/-- `{mem[pc], mem[pc + 1]}`. -/
def State.wordAtPc (s : State) : Half :=
  wordOf (Memory.read s.mem s.pc.toNat) (Memory.read s.mem (s.pc.toNat + 1))

/-- The instruction fetch: the word at `pc`, or none when `pc` > 0xFFE (R67). -/
def State.fetch (s : State) : Option Half :=
  if s.pc.toNat ≤ 0xFFE then some s.wordAtPc else none

/-- The effect of a `Step` while the latch holds a fault: nothing changes (R222). -/
def State.latched (s : State) : State := s

/-- The effect of a `Step` whose fetch is out of range (R215). -/
def State.fetchFault (s : State) : State := s.raise .fetchRange

/-- The effect of an unrecognized word (R212): `pc <- pc + 2` only. -/
def State.skipUnrecognized (s : State) : State := s.advance

/-- Places the table's word `w` where the next `Step` fetches, and lets that step fetch: the latch
is clear and `pc` is an address a word fits at (log entry 14). -/
def State.placeWord (s : State) (nbits w : Nat) : State :=
  let t := if s.pc.toNat ≤ 0xFFE then s else s.setPc 0x0200#16
  (t.setFault 0#3).setMem (Memory.store t.mem t.pc.toNat (tableBytes nbits w))

end Sys2Proof.Machine
end

