-- ==== Sys2Proof/Machine/Operands.lean ====
section
/-!
DEFINITION. The operand forms of the instructions (`30_encoding.md` R93, `42_index_memory.md` R166).
-/
namespace Sys2Proof.Machine

/-- `zext_16(NNN)` (R93): an absolute address, never scaled or relative. -/
def addrOperand (nnn : Addr) : Half := nnn.setWidth 16

/-- `zext_16(V[0]) + zext_16(NNN)` (R128). -/
def State.indexedTarget (s : State) (nnn : Addr) : Half :=
  (s.reg 0x0#4).setWidth 16 + addrOperand nnn

/-- How many registers FX55 and FX65 move: V0 to VX inclusive (R164, R165). -/
def regCount (x : RegIx) : Nat := x.toNat + 1

/-- The bytes FX55 stores: `V[0]` to `V[X]` (R164). -/
def State.firstRegs (s : State) (x : RegIx) : List Byte := s.v.toList.take (regCount x)

/-- The bytes of the `n` addresses `I + k` (R166). -/
def State.loadAtI (s : State) (n : Nat) : List Byte := Memory.load s.mem s.i.toNat n

/-- Stores bytes at the addresses `I + k` (R166). -/
def State.storeAtI (s : State) (bytes : List Byte) : State :=
  s.setMem (Memory.store s.mem s.i.toNat bytes)

/-- The decimal digits of a byte: hundreds, tens, ones (R163). -/
def decimalDigits (b : Byte) : List Byte :=
  [BitVec.ofNat 8 (b.toNat / 100), BitVec.ofNat 8 (b.toNat / 10 % 10),
   BitVec.ofNat 8 (b.toNat % 10)]

/-- `I + VX` before the reduction modulo 4096 (R161). -/
def State.indexSum (s : State) (x : RegIx) : Nat := s.i.toNat + (s.reg x).toNat

/-- The address of the font glyph of `VX` (R162). -/
def State.glyphAddr (s : State) (x : RegIx) : Half := BitVec.ofNat 16 ((s.reg x).toNat * 5)

end Sys2Proof.Machine
end

