-- ==== Sys2Proof/Machine/Flags.lean ====
section
/-!
DEFINITION. The value each flag-writing instruction leaves in VF (`10_state.md` R22).
-/
namespace Sys2Proof.Machine

/-- `b2n` (R8): a truth value as the byte 0 or 1. -/
def flagByte (b : Bool) : Byte := if b then 0x01#8 else 0x00#8

/-- 8XY4: the unbounded sum exceeds 255 (R147). -/
def carryFlag (a b : Byte) : Byte := flagByte (decide (a.toNat + b.toNat > 255))

/-- 8XY5 and 8XY7: strictly greater, unsigned (R148, R150, C4). -/
def greaterFlag (a b : Byte) : Byte := flagByte (decide (a.toNat > b.toNat))

/-- 8XY6: bit 0 before the shift (R149). -/
def lowBitFlag (a : Byte) : Byte := flagByte (a.getLsbD 0)

/-- 8XYE: bit 7 before the shift (R151). -/
def highBitFlag (a : Byte) : Byte := flagByte (a.getLsbD 7)

/-- FX1E: the unreduced sum exceeds 0xFFF (R161). -/
def indexFlag (sum : Nat) : Byte := flagByte (decide (sum > 0xFFF))

/-- DXYN: some cell went from 1 to 0 (R182). -/
def collisionFlag (collision : Bool) : Byte := flagByte collision

end Sys2Proof.Machine
end

