-- ==== Sys2Proof/Machine/Alu.lean ====
section
/-!
DEFINITION. Register load, arithmetic, logic and shift (`41_alu.md`). Operands are read from the
state before the step, the result is written first and the flag last (R140).
-/
namespace Sys2Proof.Machine

/-- The result to `VX`, no flag, `pc + 2` (R141 to R146). -/
def State.result (s : State) (x : RegIx) (b : Byte) : Host.Outcome State Fault Refusal :=
  .next (s.setReg x b).advance

/-- The result to `VX`, then the flag to VF, `pc + 2` (R140, R147 to R151). -/
def State.resultFlag (s : State) (x : RegIx) (b f : Byte) : Host.Outcome State Fault Refusal :=
  .next ((s.setReg x b).setVF f).advance

/-- 6XNN (R141). -/
def execLdI (x : RegIx) (nn : Byte) (s : State) : Host.Outcome State Fault Refusal :=
  s.result x nn

/-- 7XNN (R142). -/
def execAddI (x : RegIx) (nn : Byte) (s : State) : Host.Outcome State Fault Refusal :=
  s.result x (s.reg x + nn)

/-- 8XY0 (R143). -/
def execLdR (x y : RegIx) (s : State) : Host.Outcome State Fault Refusal :=
  s.result x (s.reg y)

/-- 8XY1 (R144). -/
def execOrR (x y : RegIx) (s : State) : Host.Outcome State Fault Refusal :=
  s.result x (s.reg x ||| s.reg y)

/-- 8XY2 (R145). -/
def execAndR (x y : RegIx) (s : State) : Host.Outcome State Fault Refusal :=
  s.result x (s.reg x &&& s.reg y)

/-- 8XY3 (R146). -/
def execXorR (x y : RegIx) (s : State) : Host.Outcome State Fault Refusal :=
  s.result x (s.reg x ^^^ s.reg y)

/-- 8XY4 (R147). -/
def execAddR (x y : RegIx) (s : State) : Host.Outcome State Fault Refusal :=
  s.resultFlag x (s.reg x + s.reg y) (carryFlag (s.reg x) (s.reg y))

/-- 8XY5 (R148). -/
def execSub (x y : RegIx) (s : State) : Host.Outcome State Fault Refusal :=
  s.resultFlag x (s.reg x - s.reg y) (greaterFlag (s.reg x) (s.reg y))

/-- 8XY6 (R149); the `Y` field is ignored (R99). -/
def execShr (x _y : RegIx) (s : State) : Host.Outcome State Fault Refusal :=
  s.resultFlag x (s.reg x >>> 1) (lowBitFlag (s.reg x))

/-- 8XY7 (R150). -/
def execSubn (x y : RegIx) (s : State) : Host.Outcome State Fault Refusal :=
  s.resultFlag x (s.reg y - s.reg x) (greaterFlag (s.reg y) (s.reg x))

/-- 8XYE (R151); the `Y` field is ignored (R99). -/
def execShl (x _y : RegIx) (s : State) : Host.Outcome State Fault Refusal :=
  s.resultFlag x (s.reg x <<< 1) (highBitFlag (s.reg x))

end Sys2Proof.Machine
end

