-- ==== Sys2Proof/Machine/Control.lean ====
section
/-!
DEFINITION. Control transfer (`40_control_flow.md`).
-/
namespace Sys2Proof.Machine

/-- 00EE, return (R121). -/
def execRet (s : State) : Host.Outcome State Fault Refusal :=
  s.withLegalSp (s.guarded s.retCheck (s.pop.setPc s.top))

/-- 1NNN, jump (R122). -/
def execJp (nnn : Addr) (s : State) : Host.Outcome State Fault Refusal :=
  .next (s.setPc (addrOperand nnn))

/-- 2NNN, call (R123). -/
def execCall (nnn : Addr) (s : State) : Host.Outcome State Fault Refusal :=
  s.withLegalSp (s.guarded s.callCheck ((s.push (s.pc + 2#16)).setPc (addrOperand nnn)))

/-- 3XNN, skip if `VX == NN` (R124). -/
def execSeI (x : RegIx) (nn : Byte) (s : State) : Host.Outcome State Fault Refusal :=
  .next (s.skipIf (s.reg x == nn))

/-- 4XNN, skip if `VX != NN` (R125). -/
def execSneI (x : RegIx) (nn : Byte) (s : State) : Host.Outcome State Fault Refusal :=
  .next (s.skipIf (s.reg x != nn))

/-- 5XY0, skip if `VX == VY` (R126). -/
def execSeR (x y : RegIx) (s : State) : Host.Outcome State Fault Refusal :=
  .next (s.skipIf (s.reg x == s.reg y))

/-- 9XY0, skip if `VX != VY` (R127). -/
def execSneR (x y : RegIx) (s : State) : Host.Outcome State Fault Refusal :=
  .next (s.skipIf (s.reg x != s.reg y))

/-- BNNN, jump to `V0 + NNN` (R128). -/
def execJpV0 (nnn : Addr) (s : State) : Host.Outcome State Fault Refusal :=
  .next (s.setPc (s.indexedTarget nnn))

end Sys2Proof.Machine
end

