-- ==== Sys2Proof/Machine/Display.lean ====
section
/-!
DEFINITION. The display instructions (`43_display.md`).
-/
namespace Sys2Proof.Machine

/-- 00E0 (R181). -/
def execCls (s : State) : Host.Outcome State Fault Refusal :=
  .next ((s.setDisp Display.blank).setRedraw true).advance

/-- The scan of DXYN (R182): `n` sprite bytes at `I`, the column from `VX`, the row from `VY`. -/
def State.scan (s : State) (x y : RegIx) (n : Nibble) : Scan :=
  Scan.sprite (s.reg x).toNat (s.reg y).toNat (s.loadAtI n.toNat) ⟨s.disp, false, false⟩

/-- The writes of DXYN after its scan (R182): display, VF, and `redraw` when a cell changed. -/
def State.drawScan (s : State) (a : Scan) : State :=
  ((s.setDisp a.disp).setVF (collisionFlag a.collision)).setRedraw (s.redraw || a.changed)

/-- DXYN (R182). -/
def execDrw (x y : RegIx) (n : Nibble) (s : State) : Host.Outcome State Fault Refusal :=
  s.guarded (s.readCheck n.toNat) (s.drawScan (s.scan x y n)).advance

end Sys2Proof.Machine
end

