-- ==== Sys2Proof/Machine/Index.lean ====
section
/-!
DEFINITION. The index register and memory instructions (`42_index_memory.md`).
-/
namespace Sys2Proof.Machine

/-- ANNN (R160). -/
def execLdIdx (nnn : Addr) (s : State) : Host.Outcome State Fault Refusal :=
  .next (s.setI (addrOperand nnn)).advance

/-- FX1E (R161): `I` keeps the sum modulo 4096, VF whether it exceeded 0xFFF. -/
def execAddIdx (x : RegIx) (s : State) : Host.Outcome State Fault Refusal :=
  .next ((s.setI (BitVec.ofNat 16 (s.indexSum x % 4096))).setVF (indexFlag (s.indexSum x))).advance

/-- FX29 (R162). -/
def execLdFont (x : RegIx) (s : State) : Host.Outcome State Fault Refusal :=
  .next (s.setI (s.glyphAddr x)).advance

/-- FX33 (R163). -/
def execLdBcd (x : RegIx) (s : State) : Host.Outcome State Fault Refusal :=
  s.guarded (s.writeCheck 3) (s.storeAtI (decimalDigits (s.reg x))).advance

/-- FX55 (R164). -/
def execStRegs (x : RegIx) (s : State) : Host.Outcome State Fault Refusal :=
  s.guarded (s.writeCheck (regCount x)) (s.storeAtI (s.firstRegs x)).advance

/-- FX65 (R165). -/
def execLdRegs (x : RegIx) (s : State) : Host.Outcome State Fault Refusal :=
  s.guarded (s.readCheck (regCount x))
    (s.setRegs (Regs.fill s.v 0 (s.loadAtI (regCount x)))).advance

end Sys2Proof.Machine
end

