-- ==== Sys2Proof/Machine/Input.lean ====
section
/-!
DEFINITION. Random, keyboard and timer instructions (`44_timers_keys_random.md`).
-/
namespace Sys2Proof.Machine

/-- CXNN (R190): a fresh byte `rnd`, masked. -/
def execRnd (x : RegIx) (nn : Byte) (s : State) : Host.Outcome State Fault Refusal :=
  .next ((s.setReg x (s.drawRnd &&& nn)).drawn).advance

/-- EX9E (R191). -/
def execSkp (x : RegIx) (s : State) : Host.Outcome State Fault Refusal :=
  s.guarded (s.keyCheck x) (s.skipIf (s.keyDown (s.reg x).toNat))

/-- EXA1 (R192). -/
def execSknp (x : RegIx) (s : State) : Host.Outcome State Fault Refusal :=
  s.guarded (s.keyCheck x) (s.skipIf (!s.keyDown (s.reg x).toNat))

/-- FX07 (R193). -/
def execLdGdt (x : RegIx) (s : State) : Host.Outcome State Fault Refusal :=
  .next (s.setReg x s.dt).advance

/-- FX0A (R194): with no key pressed nothing is written (R236); else some pressed key's number. -/
def execLdKey (x : RegIx) (s : State) : Host.Outcome State Fault Refusal :=
  match s.pressed with
  | [] => .next s
  | k :: ks => .next ((s.setReg x (BitVec.ofNat 8 (s.drawKey k ks))).drawn).advance

/-- FX15 (R195). -/
def execLdSdt (x : RegIx) (s : State) : Host.Outcome State Fault Refusal :=
  .next (s.setDt (s.reg x)).advance

/-- FX18 (R196). -/
def execLdSst (x : RegIx) (s : State) : Host.Outcome State Fault Refusal :=
  .next (s.setSt (s.reg x)).advance

end Sys2Proof.Machine
end

