-- ==== Sys2Proof/Machine/Step.lean ====
section
/-!
DEFINITION. The `Step` event (`60_exceptions.md` R237): latch, fetch, decode, execute.
-/
namespace Sys2Proof.Machine

/-- One `Step` (R237), its checks in the order of R220. -/
def step (s : State) : Host.Outcome State Fault Refusal :=
  if s.fault ≠ 0#3 then .next s.latched
  else match s.fetch with
    | none => .next s.fetchFault
    | some w =>
      match decode w with
      | some i => exec i s
      | none => .next s.skipUnrecognized

/-- The state with the table's word `w` placed where the next `Step` fetches (log entry 14). -/
def State.withFetchWord (s : State) (nbits w : Nat) : State := s.placeWord nbits w

end Sys2Proof.Machine
end

