-- ==== Sys2Proof/Laws/Encoding.lean ====
section
/-!
SUPPORT. The fields of a packed word (R91, R92).
-/
namespace Sys2Proof

variable (op x y n : BitVec 4) (nn : Byte) (nnn : Addr)

/-- A packed word as a number (format XY). -/
theorem toNat_packXY : (packXY op x y n).toNat =
    op.toNat * 4096 + x.toNat * 256 + y.toNat * 16 + n.toNat := by
  simp only [packXY, BitVec.toNat_append]
  rw [← Nat.shiftLeft_add_eq_or_of_lt x.isLt, ← Nat.shiftLeft_add_eq_or_of_lt y.isLt,
    ← Nat.shiftLeft_add_eq_or_of_lt n.isLt]
  simp only [Nat.shiftLeft_eq]
  omega

/-- A packed word as a number (formats XI and XF). -/
theorem toNat_packXI : (packXI op x nn).toNat = op.toNat * 4096 + x.toNat * 256 + nn.toNat := by
  simp only [packXI, BitVec.toNat_append]
  rw [← Nat.shiftLeft_add_eq_or_of_lt x.isLt, ← Nat.shiftLeft_add_eq_or_of_lt nn.isLt]
  simp only [Nat.shiftLeft_eq]
  omega

/-- A packed word as a number (format A). -/
theorem toNat_packA : (packA op nnn).toNat = op.toNat * 4096 + nnn.toNat := by
  simp only [packA, BitVec.toNat_append]
  rw [← Nat.shiftLeft_add_eq_or_of_lt nnn.isLt, Nat.shiftLeft_eq]

/-! ## Fields as numbers -/

theorem toNat_opOf (w : Half) : (opOf w).toNat = w.toNat / 4096 := by
  have := w.isLt
  simp [opOf, BitVec.extractLsb'_toNat, Nat.shiftRight_eq_div_pow]
  omega

theorem toNat_xOf (w : Half) : (xOf w).toNat = w.toNat / 256 % 16 := by
  simp [xOf, BitVec.extractLsb'_toNat, Nat.shiftRight_eq_div_pow]

theorem toNat_yOf (w : Half) : (yOf w).toNat = w.toNat / 16 % 16 := by
  simp [yOf, BitVec.extractLsb'_toNat, Nat.shiftRight_eq_div_pow]

theorem toNat_nOf (w : Half) : (nOf w).toNat = w.toNat % 16 := by
  simp [nOf, BitVec.extractLsb'_toNat]

theorem toNat_nnOf (w : Half) : (nnOf w).toNat = w.toNat % 256 := by
  simp [nnOf, BitVec.extractLsb'_toNat]

theorem toNat_nnnOf (w : Half) : (nnnOf w).toNat = w.toNat % 4096 := by
  simp [nnnOf, BitVec.extractLsb'_toNat]

/-! ## Fields of packed words -/

@[simp] theorem opOf_packXY : opOf (packXY op x y n) = op := by
  have := x.isLt; have := y.isLt; have := n.isLt
  apply BitVec.eq_of_toNat_eq; rw [toNat_opOf, toNat_packXY]; omega

@[simp] theorem xOf_packXY : xOf (packXY op x y n) = x := by
  have := x.isLt; have := y.isLt; have := n.isLt
  apply BitVec.eq_of_toNat_eq; rw [toNat_xOf, toNat_packXY]; omega

@[simp] theorem yOf_packXY : yOf (packXY op x y n) = y := by
  have := y.isLt; have := n.isLt
  apply BitVec.eq_of_toNat_eq; rw [toNat_yOf, toNat_packXY]; omega

@[simp] theorem nOf_packXY : nOf (packXY op x y n) = n := by
  have := n.isLt
  apply BitVec.eq_of_toNat_eq; rw [toNat_nOf, toNat_packXY]; omega

@[simp] theorem opOf_packXI : opOf (packXI op x nn) = op := by
  have := x.isLt; have := nn.isLt
  apply BitVec.eq_of_toNat_eq; rw [toNat_opOf, toNat_packXI]; omega

@[simp] theorem xOf_packXI : xOf (packXI op x nn) = x := by
  have := x.isLt; have := nn.isLt
  apply BitVec.eq_of_toNat_eq; rw [toNat_xOf, toNat_packXI]; omega

@[simp] theorem nnOf_packXI : nnOf (packXI op x nn) = nn := by
  have := nn.isLt
  apply BitVec.eq_of_toNat_eq; rw [toNat_nnOf, toNat_packXI]; omega

@[simp] theorem opOf_packA : opOf (packA op nnn) = op := by
  have := nnn.isLt
  apply BitVec.eq_of_toNat_eq; rw [toNat_opOf, toNat_packA]; omega

@[simp] theorem nnnOf_packA : nnnOf (packA op nnn) = nnn := by
  have := nnn.isLt
  apply BitVec.eq_of_toNat_eq; rw [toNat_nnnOf, toNat_packA]; omega

/-- The two bytes of a word make the word again (R62). -/
theorem wordOf_wordBytes (w : Half) :
    wordOf (w.extractLsb' 8 8) (w.extractLsb' 0 8) = w := by
  apply BitVec.eq_of_toNat_eq
  have := w.isLt
  simp only [wordOf, BitVec.toNat_append]
  rw [← Nat.shiftLeft_add_eq_or_of_lt (BitVec.isLt _), Nat.shiftLeft_eq]
  simp [BitVec.extractLsb'_toNat, Nat.shiftRight_eq_div_pow]
  omega

/-- The fetched word as a number: the byte at the lower address is the high byte (R62). -/
theorem toNat_wordOf (hi lo : Byte) : (wordOf hi lo).toNat = hi.toNat * 256 + lo.toNat := by
  simp only [wordOf, BitVec.toNat_append]
  rw [← Nat.shiftLeft_add_eq_or_of_lt lo.isLt, Nat.shiftLeft_eq]

end Sys2Proof
end

