-- ==== Sys2Proof/Laws/PerInstr.lean ====
section
/-!
SUPPORT. The per-instruction family `OpcodeRow`: the word the encoder writes for an instruction is
selected by that instruction's own row of the table of R94.
-/
namespace Sys2Proof

/-! ## What each mask of R94 keeps of a word -/

theorem mask_all (w : Half) : w &&& 0xFFFF#16 = w := by
  simpa using BitVec.and_allOnes (x := w)

theorem mask_op (w : Half) : w &&& 0xF000#16 = packA (opOf w) 0x000#12 := by
  apply BitVec.eq_of_getLsbD_eq
  intro i hi
  simp only [packA, opOf, BitVec.getLsbD_and, BitVec.getLsbD_append, BitVec.getLsbD_extractLsb']
  interval_cases i <;> simp

theorem mask_opN (w : Half) :
    w &&& 0xF00F#16 = packXY (opOf w) 0x0#4 0x0#4 (nOf w) := by
  apply BitVec.eq_of_getLsbD_eq
  intro i hi
  simp only [packXY, opOf, nOf, BitVec.getLsbD_and, BitVec.getLsbD_append, BitVec.getLsbD_extractLsb']
  interval_cases i <;> simp

theorem mask_opNN (w : Half) : w &&& 0xF0FF#16 = packXI (opOf w) 0x0#4 (nnOf w) := by
  apply BitVec.eq_of_getLsbD_eq
  intro i hi
  simp only [packXI, opOf, nnOf, BitVec.getLsbD_and, BitVec.getLsbD_append, BitVec.getLsbD_extractLsb']
  interval_cases i <;> simp

/-- The rows of R94 that carry a mnemonic and select a word. -/
def rowSelects (m : String) (w : Half) : Bool :=
  opcodeTable.any fun r => r.mnemonic == m && r.selects w

namespace Laws.OpcodeRow

/-- The word of the instruction is selected by the row of its mnemonic. -/
def Statement (i : Instr) : Prop := rowSelects i.mnemonic (encode i) = true

theorem cls : Statement .cls := by
  simp [Statement, rowSelects, opcodeTable, opRows1, opRows2, opRows3, opRows4, Instr.mnemonic,
    OpRow.selects, encode, mask_all]

theorem ret : Statement .ret := by
  simp [Statement, rowSelects, opcodeTable, opRows1, opRows2, opRows3, opRows4, Instr.mnemonic,
    OpRow.selects, encode, mask_all]

theorem jp (nnn : Addr) : Statement (.jp nnn) := by
  simp [Statement, rowSelects, opcodeTable, opRows1, opRows2, opRows3, opRows4, Instr.mnemonic,
    OpRow.selects, encode, mask_op]
  rfl

theorem call (nnn : Addr) : Statement (.call nnn) := by
  simp [Statement, rowSelects, opcodeTable, opRows1, opRows2, opRows3, opRows4, Instr.mnemonic,
    OpRow.selects, encode, mask_op]
  rfl

theorem seI (x : RegIx) (nn : Byte) : Statement (.seI x nn) := by
  simp [Statement, rowSelects, opcodeTable, opRows1, opRows2, opRows3, opRows4, Instr.mnemonic,
    OpRow.selects, encode, mask_op]
  rfl

theorem sneI (x : RegIx) (nn : Byte) : Statement (.sneI x nn) := by
  simp [Statement, rowSelects, opcodeTable, opRows1, opRows2, opRows3, opRows4, Instr.mnemonic,
    OpRow.selects, encode, mask_op]
  rfl

theorem seR (x y : RegIx) : Statement (.seR x y) := by
  simp [Statement, rowSelects, opcodeTable, opRows1, opRows2, opRows3, opRows4, Instr.mnemonic,
    OpRow.selects, encode, mask_opN, nOf_packXY]
  rfl

theorem ldI (x : RegIx) (nn : Byte) : Statement (.ldI x nn) := by
  simp [Statement, rowSelects, opcodeTable, opRows1, opRows2, opRows3, opRows4, Instr.mnemonic,
    OpRow.selects, encode, mask_op]
  rfl

theorem addI (x : RegIx) (nn : Byte) : Statement (.addI x nn) := by
  simp [Statement, rowSelects, opcodeTable, opRows1, opRows2, opRows3, opRows4, Instr.mnemonic,
    OpRow.selects, encode, mask_op]
  rfl

theorem ldR (x y : RegIx) : Statement (.ldR x y) := by
  simp [Statement, rowSelects, opcodeTable, opRows1, opRows2, opRows3, opRows4, Instr.mnemonic,
    OpRow.selects, encode, mask_opN, nOf_packXY]
  rfl

theorem orR (x y : RegIx) : Statement (.orR x y) := by
  simp [Statement, rowSelects, opcodeTable, opRows1, opRows2, opRows3, opRows4, Instr.mnemonic,
    OpRow.selects, encode, mask_opN, nOf_packXY]
  rfl

theorem andR (x y : RegIx) : Statement (.andR x y) := by
  simp [Statement, rowSelects, opcodeTable, opRows1, opRows2, opRows3, opRows4, Instr.mnemonic,
    OpRow.selects, encode, mask_opN, nOf_packXY]
  rfl

theorem xorR (x y : RegIx) : Statement (.xorR x y) := by
  simp [Statement, rowSelects, opcodeTable, opRows1, opRows2, opRows3, opRows4, Instr.mnemonic,
    OpRow.selects, encode, mask_opN, nOf_packXY]
  rfl

theorem addR (x y : RegIx) : Statement (.addR x y) := by
  simp [Statement, rowSelects, opcodeTable, opRows1, opRows2, opRows3, opRows4, Instr.mnemonic,
    OpRow.selects, encode, mask_opN, nOf_packXY]
  rfl

theorem sub (x y : RegIx) : Statement (.sub x y) := by
  simp [Statement, rowSelects, opcodeTable, opRows1, opRows2, opRows3, opRows4, Instr.mnemonic,
    OpRow.selects, encode, mask_opN, nOf_packXY]
  rfl

theorem shr (x y : RegIx) : Statement (.shr x y) := by
  simp [Statement, rowSelects, opcodeTable, opRows1, opRows2, opRows3, opRows4, Instr.mnemonic,
    OpRow.selects, encode, mask_opN, nOf_packXY]
  rfl

theorem subn (x y : RegIx) : Statement (.subn x y) := by
  simp [Statement, rowSelects, opcodeTable, opRows1, opRows2, opRows3, opRows4, Instr.mnemonic,
    OpRow.selects, encode, mask_opN, nOf_packXY]
  rfl

theorem shl (x y : RegIx) : Statement (.shl x y) := by
  simp [Statement, rowSelects, opcodeTable, opRows1, opRows2, opRows3, opRows4, Instr.mnemonic,
    OpRow.selects, encode, mask_opN, nOf_packXY]
  rfl

theorem sneR (x y : RegIx) : Statement (.sneR x y) := by
  simp [Statement, rowSelects, opcodeTable, opRows1, opRows2, opRows3, opRows4, Instr.mnemonic,
    OpRow.selects, encode, mask_opN, nOf_packXY]
  rfl

theorem ldIdx (nnn : Addr) : Statement (.ldIdx nnn) := by
  simp [Statement, rowSelects, opcodeTable, opRows1, opRows2, opRows3, opRows4, Instr.mnemonic,
    OpRow.selects, encode, mask_op]
  rfl

theorem jpV0 (nnn : Addr) : Statement (.jpV0 nnn) := by
  simp [Statement, rowSelects, opcodeTable, opRows1, opRows2, opRows3, opRows4, Instr.mnemonic,
    OpRow.selects, encode, mask_op]
  rfl

theorem rnd (x : RegIx) (nn : Byte) : Statement (.rnd x nn) := by
  simp [Statement, rowSelects, opcodeTable, opRows1, opRows2, opRows3, opRows4, Instr.mnemonic,
    OpRow.selects, encode, mask_op]
  rfl

theorem drw (x y : RegIx) (n : Nibble) : Statement (.drw x y n) := by
  simp [Statement, rowSelects, opcodeTable, opRows1, opRows2, opRows3, opRows4, Instr.mnemonic,
    OpRow.selects, encode, mask_op]
  rfl

theorem skp (x : RegIx) : Statement (.skp x) := by
  simp [Statement, rowSelects, opcodeTable, opRows1, opRows2, opRows3, opRows4, Instr.mnemonic,
    OpRow.selects, encode, mask_opNN, nnOf_packXI]
  rfl

theorem sknp (x : RegIx) : Statement (.sknp x) := by
  simp [Statement, rowSelects, opcodeTable, opRows1, opRows2, opRows3, opRows4, Instr.mnemonic,
    OpRow.selects, encode, mask_opNN, nnOf_packXI]
  rfl

theorem ldGdt (x : RegIx) : Statement (.ldGdt x) := by
  simp [Statement, rowSelects, opcodeTable, opRows1, opRows2, opRows3, opRows4, Instr.mnemonic,
    OpRow.selects, encode, mask_opNN, nnOf_packXI]
  rfl

theorem ldKey (x : RegIx) : Statement (.ldKey x) := by
  simp [Statement, rowSelects, opcodeTable, opRows1, opRows2, opRows3, opRows4, Instr.mnemonic,
    OpRow.selects, encode, mask_opNN, nnOf_packXI]
  rfl

theorem ldSdt (x : RegIx) : Statement (.ldSdt x) := by
  simp [Statement, rowSelects, opcodeTable, opRows1, opRows2, opRows3, opRows4, Instr.mnemonic,
    OpRow.selects, encode, mask_opNN, nnOf_packXI]
  rfl

theorem ldSst (x : RegIx) : Statement (.ldSst x) := by
  simp [Statement, rowSelects, opcodeTable, opRows1, opRows2, opRows3, opRows4, Instr.mnemonic,
    OpRow.selects, encode, mask_opNN, nnOf_packXI]
  rfl

theorem addIdx (x : RegIx) : Statement (.addIdx x) := by
  simp [Statement, rowSelects, opcodeTable, opRows1, opRows2, opRows3, opRows4, Instr.mnemonic,
    OpRow.selects, encode, mask_opNN, nnOf_packXI]
  rfl

theorem ldFont (x : RegIx) : Statement (.ldFont x) := by
  simp [Statement, rowSelects, opcodeTable, opRows1, opRows2, opRows3, opRows4, Instr.mnemonic,
    OpRow.selects, encode, mask_opNN, nnOf_packXI]
  rfl

theorem ldBcd (x : RegIx) : Statement (.ldBcd x) := by
  simp [Statement, rowSelects, opcodeTable, opRows1, opRows2, opRows3, opRows4, Instr.mnemonic,
    OpRow.selects, encode, mask_opNN, nnOf_packXI]
  rfl

theorem stRegs (x : RegIx) : Statement (.stRegs x) := by
  simp [Statement, rowSelects, opcodeTable, opRows1, opRows2, opRows3, opRows4, Instr.mnemonic,
    OpRow.selects, encode, mask_opNN, nnOf_packXI]
  rfl

theorem ldRegs (x : RegIx) : Statement (.ldRegs x) := by
  simp [Statement, rowSelects, opcodeTable, opRows1, opRows2, opRows3, opRows4, Instr.mnemonic,
    OpRow.selects, encode, mask_opNN, nnOf_packXI]
  rfl

end Laws.OpcodeRow

end Sys2Proof
end

