-- ==== Sys2Proof/Machine/Assembler.lean ====
section
/-!
DEFINITION. The assembler notation over the terms of Syntax.lean (`30_encoding.md` R97, R98; log
entry 15): a numeral or register number that does not fit is refused, never truncated.
-/
namespace Sys2Proof.Machine

/-- A numeral that must fit a field of `width` bits. -/
def fitting (width n : Nat) : Option (BitVec width) :=
  if n < 2 ^ width then some (BitVec.ofNat width n) else none

/-- A form with one register. -/
def asmX (x : Nat) (f : RegIx → Instr) : Option Instr := (fitting 4 x).map f

/-- A form with two registers. -/
def asmXY (x y : Nat) (f : RegIx → RegIx → Instr) : Option Instr :=
  (fitting 4 x).bind fun x => (fitting 4 y).map fun y => f x y

/-- A form with a register and a byte. -/
def asmXI (x nn : Nat) (f : RegIx → Byte → Instr) : Option Instr :=
  (fitting 4 x).bind fun x => (fitting 8 nn).map fun nn => f x nn

/-- A form with an address. -/
def asmA (nnn : Nat) (f : Addr → Instr) : Option Instr := (fitting 12 nnn).map f

/-- The operand shapes of `LD` (R97). -/
def asmLd : List AsmOperand → Option Instr
  | [.reg x, .num nn] => asmXI x nn .ldI
  | [.reg x, .reg y] => asmXY x y .ldR
  | [.idx, .num nnn] => asmA nnn .ldIdx
  | [.reg x, .dt] => asmX x .ldGdt
  | [.reg x, .key] => asmX x .ldKey
  | [.dt, .reg x] => asmX x .ldSdt
  | [.st, .reg x] => asmX x .ldSst
  | [.font, .reg x] => asmX x .ldFont
  | [.bcd, .reg x] => asmX x .ldBcd
  | [.atIdx, .reg x] => asmX x .stRegs
  | [.reg x, .atIdx] => asmX x .ldRegs
  | _ => none

/-- The operand shapes of `ADD` (R97). -/
def asmAdd : List AsmOperand → Option Instr
  | [.reg x, .num nn] => asmXI x nn .addI
  | [.reg x, .reg y] => asmXY x y .addR
  | [.idx, .reg x] => asmX x .addIdx
  | _ => none

/-- A register against a numeral, or a register against a register: `SE`, `SNE` (R97). -/
def asmSkip (fi : RegIx → Byte → Instr) (fr : RegIx → RegIx → Instr) :
    List AsmOperand → Option Instr
  | [.reg x, .num nn] => asmXI x nn fi
  | [.reg x, .reg y] => asmXY x y fr
  | _ => none

/-- Two registers. -/
def asmPair (f : RegIx → RegIx → Instr) : List AsmOperand → Option Instr
  | [.reg x, .reg y] => asmXY x y f
  | _ => none

/-- One register, or two: `y` = 0 in the one-operand form of `SHR` and `SHL` (R97). -/
def asmShift (f : RegIx → RegIx → Instr) : List AsmOperand → Option Instr
  | [.reg x] => asmXY x 0 f
  | [.reg x, .reg y] => asmXY x y f
  | _ => none

/-- No operand. -/
def asmNone (i : Instr) : List AsmOperand → Option Instr
  | [] => some i
  | _ => none

/-- One register. -/
def asmOne (f : RegIx → Instr) : List AsmOperand → Option Instr
  | [.reg x] => asmX x f
  | _ => none

/-- The forms of `JP` (R97). -/
def asmJp : List AsmOperand → Option Instr
  | [.num nnn] => asmA nnn .jp
  | [.reg r, .num nnn] => if r = 0 then asmA nnn .jpV0 else none
  | _ => none

/-- The form of `CALL` (R97). -/
def asmCall : List AsmOperand → Option Instr
  | [.num nnn] => asmA nnn .call
  | _ => none

/-- The form of `RND` (R97). -/
def asmRnd : List AsmOperand → Option Instr
  | [.reg x, .num nn] => asmXI x nn .rnd
  | _ => none

/-- The form of `DRW` (R97). -/
def asmDrw : List AsmOperand → Option Instr
  | [.reg x, .reg y, .num n] =>
    (fitting 4 x).bind fun x => (fitting 4 y).bind fun y => (fitting 4 n).map fun n => .drw x y n
  | _ => none

/-- The instruction of an assembler line, or none when the line is refused (R97). -/
def assemble (l : AsmLine) : Option Instr :=
  match l.word with
  | .cls => asmNone .cls l.args
  | .ret => asmNone .ret l.args
  | .jp => asmJp l.args
  | .call => asmCall l.args
  | .se => asmSkip .seI .seR l.args
  | .sne => asmSkip .sneI .sneR l.args
  | .ld => asmLd l.args
  | .add => asmAdd l.args
  | .or => asmPair .orR l.args
  | .and => asmPair .andR l.args
  | .xor => asmPair .xorR l.args
  | .sub => asmPair .sub l.args
  | .shr => asmShift .shr l.args
  | .subn => asmPair .subn l.args
  | .shl => asmShift .shl l.args
  | .rnd => asmRnd l.args
  | .drw => asmDrw l.args
  | .skp => asmOne .skp l.args
  | .sknp => asmOne .sknp l.args

/-- The line of an instruction (R97); `SHR` and `SHL` are written in the two-operand form. -/
def disassemble : Instr → AsmLine
  | .cls => ⟨.cls, []⟩
  | .ret => ⟨.ret, []⟩
  | .jp nnn => ⟨.jp, [.num nnn.toNat]⟩
  | .call nnn => ⟨.call, [.num nnn.toNat]⟩
  | .seI x nn => ⟨.se, [.reg x.toNat, .num nn.toNat]⟩
  | .sneI x nn => ⟨.sne, [.reg x.toNat, .num nn.toNat]⟩
  | .seR x y => ⟨.se, [.reg x.toNat, .reg y.toNat]⟩
  | .ldI x nn => ⟨.ld, [.reg x.toNat, .num nn.toNat]⟩
  | .addI x nn => ⟨.add, [.reg x.toNat, .num nn.toNat]⟩
  | .ldR x y => ⟨.ld, [.reg x.toNat, .reg y.toNat]⟩
  | .orR x y => ⟨.or, [.reg x.toNat, .reg y.toNat]⟩
  | .andR x y => ⟨.and, [.reg x.toNat, .reg y.toNat]⟩
  | .xorR x y => ⟨.xor, [.reg x.toNat, .reg y.toNat]⟩
  | .addR x y => ⟨.add, [.reg x.toNat, .reg y.toNat]⟩
  | .sub x y => ⟨.sub, [.reg x.toNat, .reg y.toNat]⟩
  | .shr x y => ⟨.shr, [.reg x.toNat, .reg y.toNat]⟩
  | .subn x y => ⟨.subn, [.reg x.toNat, .reg y.toNat]⟩
  | .shl x y => ⟨.shl, [.reg x.toNat, .reg y.toNat]⟩
  | .sneR x y => ⟨.sne, [.reg x.toNat, .reg y.toNat]⟩
  | .ldIdx nnn => ⟨.ld, [.idx, .num nnn.toNat]⟩
  | .jpV0 nnn => ⟨.jp, [.reg 0, .num nnn.toNat]⟩
  | .rnd x nn => ⟨.rnd, [.reg x.toNat, .num nn.toNat]⟩
  | .drw x y n => ⟨.drw, [.reg x.toNat, .reg y.toNat, .num n.toNat]⟩
  | .skp x => ⟨.skp, [.reg x.toNat]⟩
  | .sknp x => ⟨.sknp, [.reg x.toNat]⟩
  | .ldGdt x => ⟨.ld, [.reg x.toNat, .dt]⟩
  | .ldKey x => ⟨.ld, [.reg x.toNat, .key]⟩
  | .ldSdt x => ⟨.ld, [.dt, .reg x.toNat]⟩
  | .ldSst x => ⟨.ld, [.st, .reg x.toNat]⟩
  | .addIdx x => ⟨.add, [.idx, .reg x.toNat]⟩
  | .ldFont x => ⟨.ld, [.font, .reg x.toNat]⟩
  | .ldBcd x => ⟨.ld, [.bcd, .reg x.toNat]⟩
  | .stRegs x => ⟨.ld, [.atIdx, .reg x.toNat]⟩
  | .ldRegs x => ⟨.ld, [.reg x.toNat, .atIdx]⟩

/-- The item of a word: its instruction's line, or `DW` when it is unrecognized (R97). -/
def disassembleWord (w : Half) : AsmItem :=
  match decode w with
  | some i => .line (disassemble i)
  | none => .dw w.toNat

/-- The bytes of an item at the current address (R97, R98): words high byte first. -/
def assembleItem : AsmItem → Option (List Byte)
  | .line l => (assemble l).map encodeBytes
  | .db bs => if bs.all (fun b => decide (b < 256)) then some (bs.map (BitVec.ofNat 8)) else none
  | .dw w => (fitting 16 w).map wordBytes

/-- The ROM image of an assembler program (R98): a flat byte sequence with no header. -/
def assembleProgram : List AsmItem → Option (List Byte)
  | [] => some []
  | a :: as => (assembleItem a).bind fun b => (assembleProgram as).map fun bs => b ++ bs

end Sys2Proof.Machine
end

