-- ==== Sys2Proof/Machine/Report.lean ====
section
/-!
DEFINITION. The outcome a `Step` reports (`60_exceptions.md` R210). It is an output, computed from the
state before the step, and stored nowhere (R35; log entry 1): `step` gives the next state, `report`
the outcome.
-/
namespace Sys2Proof.Machine

/-- The outcomes of R210. A latched fault is reported again without its `info` (R222). -/
inductive Report where
  | completed
  | waiting
  | decodeError (a w : Half)
  | fault (code : BitVec 3) (info : Option Nat)
  deriving DecidableEq, Repr

/-- The outcome of an instruction with the given check. -/
def reportCheck : Option Raise → Report
  | none => .completed
  | some r => .fault r.cause.code (some r.info)

/-- The outcome of one recognized instruction. -/
def reportInstr (i : Instr) (s : State) : Report :=
  match i with
  | .ret => reportCheck s.retCheck
  | .call _ => reportCheck s.callCheck
  | .drw _ _ n => reportCheck (s.readCheck n.toNat)
  | .skp x => reportCheck (s.keyCheck x)
  | .sknp x => reportCheck (s.keyCheck x)
  | .ldBcd _ => reportCheck (s.writeCheck 3)
  | .stRegs x => reportCheck (s.writeCheck (regCount x))
  | .ldRegs x => reportCheck (s.readCheck (regCount x))
  | .ldKey _ => if s.pressed = [] then .waiting else .completed
  | .cls => .completed
  | .jp _ => .completed
  | .seI _ _ => .completed
  | .sneI _ _ => .completed
  | .seR _ _ => .completed
  | .ldI _ _ => .completed
  | .addI _ _ => .completed
  | .ldR _ _ => .completed
  | .orR _ _ => .completed
  | .andR _ _ => .completed
  | .xorR _ _ => .completed
  | .addR _ _ => .completed
  | .sub _ _ => .completed
  | .shr _ _ => .completed
  | .subn _ _ => .completed
  | .shl _ _ => .completed
  | .sneR _ _ => .completed
  | .ldIdx _ => .completed
  | .jpV0 _ => .completed
  | .rnd _ _ => .completed
  | .ldGdt _ => .completed
  | .ldSdt _ => .completed
  | .ldSst _ => .completed
  | .addIdx _ => .completed
  | .ldFont _ => .completed

/-- The outcome the next `Step` reports (R210, R237). -/
def report (s : State) : Report :=
  if s.fault ≠ 0#3 then .fault s.fault none
  else match s.fetch with
    | none => .fault Cause.fetchRange.code (some s.pc.toNat)
    | some w =>
      match decode w with
      | some i => reportInstr i s
      | none => .decodeError s.pc w

end Sys2Proof.Machine
end

