-- ==== Sys2Proof/Machine/Events.lean ====
section
/-!
DEFINITION. The events by which the outside acts on the core (`00_scope.md` R11, `60_exceptions.md`
R226 to R232, `70_reset_and_hazards.md` R250), each atomic; a schedule is a list of them.
-/
namespace Sys2Proof.Machine

/-- `Tick` (R227): both timers count down and stop at 0. -/
def State.tick (s : State) : State :=
  (s.setDt (if s.dt.toNat > 0 then s.dt - 1#8 else s.dt)).setSt
    (if s.st.toNat > 0 then s.st - 1#8 else s.st)

/-- `KeyWrite(k, b)` (R228). -/
def State.keyWrite (s : State) (k : Fin 16) (b : Bool) : State := s.setKey (s.key.set k b)

/-- `RedrawAck` (R229). -/
def State.redrawAck (s : State) : State := s.setRedraw false

/-- The events and observations of R11. -/
inductive Event where
  | step
  /-- `none` is the loader's "no bytes to load" (R252) -/
  | reset (rom : Option (List Byte))
  | tick
  | keyWrite (k : Fin 16) (b : Bool)
  | redrawAck
  | displayRead
  | soundObserve
  deriving DecidableEq, Repr

/-- What an event returns to its issuer. -/
inductive Response where
  | nothing
  /-- the outcome of a `Step` (R210) -/
  | outcome (r : Report)
  /-- all cells and the redraw flag (R230) -/
  | display (d : Display) (redraw : Bool)
  /-- the sound timer (R231) -/
  | sound (st : Byte)
  deriving DecidableEq, Repr

/-- The state after an event. Only `Step` is gated by the fault latch (R222). -/
def applyEvent (e : Event) (s : State) : Host.Outcome State Fault Refusal :=
  match e with
  | .step => Sys2Proof.Machine.step s
  | .reset rom => .next (s.resetWith rom)
  | .tick => .next s.tick
  | .keyWrite k b => .next (s.keyWrite k b)
  | .redrawAck => .next s.redrawAck
  | .displayRead => .next s
  | .soundObserve => .next s

/-- What an event returns. -/
def respond (e : Event) (s : State) : Response :=
  match e with
  | .step => .outcome (report s)
  | .reset _ => .nothing
  | .tick => .nothing
  | .keyWrite _ _ => .nothing
  | .redrawAck => .nothing
  | .displayRead => .display s.disp s.redraw
  | .soundObserve => .sound s.st

/-- A schedule (R226): events one after the other, stopping where the model stops. -/
def runEvents : List Event → State → Host.Outcome State Fault Refusal
  | [], s => .next s
  | e :: es, s =>
    match applyEvent e s with
    | .next t => runEvents es t
    | .fault r => .fault r
    | .refused r => .refused r

end Sys2Proof.Machine
end

