-- ==== Sys2Proof/Safety.lean ====
section
/-!
DEFINITION. The terms in which claims about the machine are stated: its elements and what a step
may change, the invariant of R37, safe steps, the end of a run (R258).
-/
namespace Sys2Proof.Safety

open Sys2Proof.Machine

/-- One element of the state (R20), each register, byte, stack entry, cell and key by itself; and
the model's draw counter. -/
inductive Elem where
  | byte (a : Nat)
  | reg (k : RegIx)
  | idx
  | pc
  | stack (k : Fin 16)
  | sp
  | dt
  | st
  | cell (r : Fin 32) (c : Fin 64)
  | key (k : Fin 16)
  | redraw
  | fault
  | draws
  deriving DecidableEq, Repr

/-- The element has the same value in both states. -/
def Elem.Same (s t : State) : Elem → Prop
  | .byte a => Memory.read t.mem a = Memory.read s.mem a
  | .reg k => t.reg k = s.reg k
  | .idx => t.i = s.i
  | .pc => t.pc = s.pc
  | .stack k => t.stack[k] = s.stack[k]
  | .sp => t.sp = s.sp
  | .dt => t.dt = s.dt
  | .st => t.st = s.st
  | .cell r c => Display.cell t.disp r c = Display.cell s.disp r c
  | .key k => t.key[k] = s.key[k]
  | .redraw => t.redraw = s.redraw
  | .fault => t.fault = s.fault
  | .draws => t.draws = s.draws

/-- From `s` to `t` nothing changes but elements that `p` allows. -/
def ChangesOnly (s t : State) (p : Elem → Prop) : Prop := ∀ e, ¬ p e → e.Same s t

/-- The elements an instruction may write when it does not fault, from the "written by" column of
R38 (VF by the seven instructions of R22); and the draw counter, the model's own (log entry 7), by
CXNN and FX0A. -/
def MayWrite (i : Instr) (s : State) (e : Elem) : Prop :=
  e = .pc ∨
  match i with
  | .cls => (∃ r c, e = .cell r c) ∨ e = .redraw
  | .ret => e = .sp
  | .jp _ => False
  | .call _ => e = .sp ∨ ∃ k : Fin 16, e = .stack k ∧ k.val = s.sp.toNat
  | .seI _ _ => False
  | .sneI _ _ => False
  | .seR _ _ => False
  | .ldI x _ => e = .reg x
  | .addI x _ => e = .reg x
  | .ldR x _ => e = .reg x
  | .orR x _ => e = .reg x
  | .andR x _ => e = .reg x
  | .xorR x _ => e = .reg x
  | .addR x _ => e = .reg x ∨ e = .reg 0xF#4
  | .sub x _ => e = .reg x ∨ e = .reg 0xF#4
  | .shr x _ => e = .reg x ∨ e = .reg 0xF#4
  | .subn x _ => e = .reg x ∨ e = .reg 0xF#4
  | .shl x _ => e = .reg x ∨ e = .reg 0xF#4
  | .sneR _ _ => False
  | .ldIdx _ => e = .idx
  | .jpV0 _ => False
  | .rnd x _ => e = .reg x ∨ e = .draws
  | .drw x y n => e = .reg 0xF#4 ∨ e = .redraw ∨
      ∃ (r : Fin 32) (c : Fin 64) (j k : Nat), e = .cell r c ∧ j < n.toNat ∧ k < 8 ∧
        r.val = ((s.reg y).toNat + j) % 32 ∧ c.val = ((s.reg x).toNat + k) % 64
  | .skp _ => False
  | .sknp _ => False
  | .ldGdt x => e = .reg x
  | .ldKey x => e = .reg x ∨ e = .draws
  | .ldSdt _ => e = .dt
  | .ldSst _ => e = .st
  | .addIdx _ => e = .idx ∨ e = .reg 0xF#4
  | .ldFont _ => e = .idx
  | .ldBcd _ => ∃ k, k < 3 ∧ e = .byte (s.i.toNat + k)
  | .stRegs x => ∃ k, k ≤ x.toNat ∧ e = .byte (s.i.toNat + k)
  | .ldRegs x => ∃ k, k.toNat ≤ x.toNat ∧ e = .reg k

/-- The sprite of DXYN has a 1 bit on cell `(r, c)`: some sprite row `j` and column `k` fall on it
and bit `7 - k` of the byte at `I + j` is 1 (R182). -/
def SpriteBitOn (s : State) (x y : RegIx) (n : Nibble) (r : Fin 32) (c : Fin 64) : Prop :=
  ∃ j k, j < n.toNat ∧ k < 8 ∧ r.val = ((s.reg y).toNat + j) % 32 ∧
    c.val = ((s.reg x).toNat + k) % 64 ∧
    (Memory.read s.mem (s.i.toNat + j)).getLsbD (7 - k) = true

/-- R37: (a) `I` <= 0xFFF; (b) `SP` <= 16; (d) the font is intact. That memory is in canonical form is
the model's own clause (log entry 9). R37 (c) and (e) hold by the types. -/
abbrev Inv (s : State) : Prop :=
  s.i.toNat ≤ 0xFFF ∧ s.sp.toNat ≤ 16 ∧ Memory.wf s.mem = true ∧ Memory.fontIntact s.mem = true

/-- A safe step: no fault is latched or raised and no unrecognized word is met (R212, R222). -/
def SafeStep (s : State) : Prop := report s = .completed ∨ report s = .waiting

/-- A run has ended at `e` (R258, the spec's own definition): no fault is latched, `pc` is `e` and
the word fetched there is the jump to `e` itself. -/
def EndedAt (e : Addr) (s : State) : Prop :=
  s.fault = 0#3 ∧ s.pc = e.setWidth 16 ∧ s.fetch = some (0x1#4 ++ e)

end Sys2Proof.Safety
end

