-- ==== Sys2Proof/Certificates/Slice0/Obligations.lean ====
section
/-!
DEFINITION. The statements for the provers. Each docstring cites the rule it formalises. An
instruction's statement gives its encoding (the word written field by field), the state it leaves,
what it leaves unchanged, and the outcome it reports. `ChangesOnly s t p` is the frame: every
register, memory byte, stack entry, display cell, key and other element outside `p` is as before.
-/

open Sys2Proof Sys2Proof.Machine Sys2Proof.Safety

/-! ## Encoding -/

/-- R90, R91, R94: decoding the word of any instruction gives the instruction back. -/
def Obligations.DecodeInvertsEncode : Prop := ∀ i : Instr, decode (encode i) = some i

/-- R94, R99: a recognized word is the word of the instruction it decodes to, so no two words mean
the same instruction with the same fields. -/
def Obligations.EncodeInvertsDecode : Prop :=
  ∀ (w : Half) (i : Instr), decode w = some i → encode i = w

/-- R94: a word that selects a row, by `w & mask == match`, decodes to an instruction of that row, so
the rows are mutually exclusive and their order does not matter; a word that selects no row is
unrecognized. -/
def Obligations.DecoderFollowsOpcodeTable : Prop :=
  ∀ w : Half,
    (∀ r ∈ opcodeTable, w &&& r.mask = r.value →
      (decode w).map Instr.mnemonic = some r.mnemonic) ∧
    ((∀ r ∈ opcodeTable, w &&& r.mask ≠ r.value) → decode w = none) ∧
    (∀ r ∈ opcodeTable, ∀ q ∈ opcodeTable, w &&& r.mask = r.value → w &&& q.mask = q.value → r = q)

/-- R95: the unrecognized words, family by family. -/
def Obligations.UnrecognizedWordsByFamily : Prop :=
  ∀ w : Half, decode w = none ↔
    (w.toNat / 4096 = 0x0 ∧ w.toNat ≠ 0x00E0 ∧ w.toNat ≠ 0x00EE) ∨
    (w.toNat / 4096 = 0x5 ∧ w.toNat % 16 ≠ 0) ∨
    (w.toNat / 4096 = 0x8 ∧ w.toNat % 16 ∈ [0x8, 0x9, 0xA, 0xB, 0xC, 0xD, 0xF]) ∨
    (w.toNat / 4096 = 0x9 ∧ w.toNat % 16 ≠ 0) ∨
    (w.toNat / 4096 = 0xE ∧ w.toNat % 256 ∉ [0x9E, 0xA1]) ∨
    (w.toNat / 4096 = 0xF ∧
      w.toNat % 256 ∉ [0x07, 0x0A, 0x15, 0x18, 0x1E, 0x29, 0x33, 0x55, 0x65])

/-- R91, R94: words written out bit by bit, one at least of each format and family. -/
def Obligations.SampleWordsDecode : Prop :=
  decode 0b0000000011100000#16 = some .cls ∧
  decode 0b0001101010111100#16 = some (.jp 0xABC) ∧
  decode 0b0110101000010010#16 = some (.ldI 0xA 0x12) ∧
  decode 0b1000101010110100#16 = some (.addR 0xA 0xB) ∧
  decode 0b1101000100100101#16 = some (.drw 0x1 0x2 0x5) ∧
  decode 0b1110010010011110#16 = some (.skp 0x4) ∧
  decode 0b1111001001100101#16 = some (.ldRegs 0x2) ∧
  decode 0b0101000100100001#16 = none

/-- R97: the assembler accepts a line exactly when it is well formed: an operand shape of its word,
every register and numeral fitting its field. -/
def Obligations.AssemblerAcceptsWellFormedLines : Prop :=
  ∀ l : AsmLine, (assemble l).isSome = l.wellFormed

/-- R97: every instruction has a line, and assembling it gives the instruction back. -/
def Obligations.AssembleInvertsDisassemble : Prop :=
  ∀ i : Instr, assemble (disassemble i) = some i

/-! ## The step -/

/-- R62, R90, R237: with the latch clear and `pc` in range, a step runs the instruction that the
word `mem[pc] * 256 + mem[pc + 1]` decodes to, and adds nothing of its own around it. -/
def Obligations.StepRunsDecodedInstruction : Prop :=
  ∀ (s : State) (w : Half) (i : Instr), s.fault = 0#3 → s.pc.toNat ≤ 0xFFE →
    w.toNat = (Memory.read s.mem s.pc.toNat).toNat * 256 +
      (Memory.read s.mem (s.pc.toNat + 1)).toNat →
    decode w = some i →
    step s = exec i s ∧ report s = reportInstr i s

/-- R212: an unrecognized word is reported with its address and skipped: `pc <- pc + 2`, no other
change, no fault. -/
def Obligations.UnrecognizedWordIsSkipped : Prop :=
  ∀ (s : State) (w : Half), s.fault = 0#3 → s.pc.toNat ≤ 0xFFE →
    w.toNat = (Memory.read s.mem s.pc.toNat).toNat * 256 +
      (Memory.read s.mem (s.pc.toNat + 1)).toNat →
    decode w = none →
    ∃ t, step s = .next t ∧ t.pc = s.pc + 2#16 ∧ ChangesOnly s t (fun e => e = .pc) ∧
      report s = .decodeError s.pc w

/-- R67, R215: a fetch whose second byte lies above 0xFFF raises `FetchRange(pc)`: the latch is
3, nothing else changes. -/
def Obligations.FetchBeyondMemoryFaults : Prop :=
  ∀ s : State, s.fault = 0#3 → 0xFFE < s.pc.toNat →
    step s = .next { s with fault := 3#3 } ∧ report s = .fault 3#3 (some s.pc.toNat)

/-- R222: while the latch holds a fault, a step changes nothing and reports the code again, without
`info`; the other events act as usual and none but `Reset` writes the latch. -/
def Obligations.LatchedFaultFreezesTheCore : Prop :=
  ∀ s : State, s.fault ≠ 0#3 →
    step s = .next s ∧ report s = .fault s.fault none ∧
    ∀ (e : Event) (t : State), (∀ rom, e ≠ .reset rom) → applyEvent e s = .next t →
      t.fault = s.fault

/-- R221: a step that raises a fault sets the latch and changes nothing else: `pc` stays at the
faulting instruction, which has had no partial effect. -/
def Obligations.FaultsArePrecise : Prop :=
  ∀ s t : State, s.fault = 0#3 → step s = .next t → t.fault ≠ 0#3 →
    t = { s with fault := t.fault }

/-- R210, R237: the outcome a step reports and the state it leaves agree. The premise on the stack
pointer is R37 (b). -/
def Obligations.ReportMatchesNextState : Prop :=
  ∀ s : State, s.fault = 0#3 → s.sp.toNat ≤ 16 → ∃ t, step s = .next t ∧
    (report s = .completed → t.fault = 0#3) ∧
    (report s = .waiting → t = s) ∧
    (∀ a w, report s = .decodeError a w → a = s.pc ∧ t = { s with pc := s.pc + 2#16 }) ∧
    (∀ c info, report s = .fault c info →
      c ≠ 0#3 ∧ info.isSome = true ∧ t = { s with fault := c })

/-- R236: `Waiting` is reported only by FX0A with no key pressed, and that step changes nothing. -/
def Obligations.OnlyKeyWaitWaits : Prop :=
  ∀ s : State, report s = .waiting ↔
    s.fault = 0#3 ∧ s.pc.toNat ≤ 0xFFE ∧ (∃ x, decode s.wordAtPc = some (.ldKey x)) ∧
      (∀ k : Fin 16, s.key[k] = false) ∧ step s = .next s

/-- R211: which instruction raises which fault, when, and with which value; no other instruction
can fault. -/
def Obligations.FaultCausesOfInstructions : Prop :=
  ∀ (i : Instr) (s : State) (c : BitVec 3) (info : Option Nat),
    reportInstr i s = .fault c info ↔
      (c = 1#3 ∧ (∃ nnn, i = .call nnn) ∧ s.sp.toNat = 16 ∧ info = some s.pc.toNat) ∨
      (c = 2#3 ∧ i = .ret ∧ s.sp.toNat = 0 ∧ info = some s.pc.toNat) ∨
      (c = 4#3 ∧ ∃ last, info = some last ∧ 0xFFF < last ∧
        ((∃ x y n, i = .drw x y n ∧ 1 ≤ n.toNat ∧ last = s.i.toNat + n.toNat - 1) ∨
         (∃ x, i = .ldBcd x ∧ 0x04F < s.i.toNat ∧ last = s.i.toNat + 2) ∨
         (∃ x, i = .stRegs x ∧ 0x04F < s.i.toNat ∧ last = s.i.toNat + x.toNat) ∨
         (∃ x, i = .ldRegs x ∧ last = s.i.toNat + x.toNat))) ∨
      (c = 5#3 ∧ (∃ x, i = .ldBcd x ∨ i = .stRegs x) ∧ s.i.toNat ≤ 0x04F ∧
        info = some s.i.toNat) ∨
      (c = 6#3 ∧ ∃ x, (i = .skp x ∨ i = .sknp x) ∧ 0x0F < (s.reg x).toNat ∧
        info = some (s.reg x).toNat)

/-! ## Control transfer -/

/-- R121, R214: 00EE pops the return address into `pc`; with `SP` = 0 it raises `StackUnderflow`. -/
def Obligations.ReturnPopsTheStack : Prop :=
  decode 0x00EE#16 = some .ret ∧
  (∀ (s : State) (k : Fin 16), s.sp.toNat = k.val + 1 →
    ∃ t, exec .ret s = .next t ∧ t.sp.toNat = k.val ∧ t.pc = s.stack[k] ∧
      ChangesOnly s t (fun e => e = .sp ∨ e = .pc) ∧ reportInstr .ret s = .completed) ∧
  (∀ s : State, s.sp.toNat = 0 →
    exec .ret s = .next { s with fault := 2#3 } ∧
      reportInstr .ret s = .fault 2#3 (some s.pc.toNat))

/-- R122: 1NNN writes `pc` and nothing else, for every target. -/
def Obligations.JumpSetsPc : Prop :=
  ∀ (nnn : Addr) (s : State), decode (0x1#4 ++ nnn) = some (.jp nnn) ∧
    ∃ t, exec (.jp nnn) s = .next t ∧ t.pc.toNat = nnn.toNat ∧
      ChangesOnly s t (fun e => e = .pc) ∧ reportInstr (.jp nnn) s = .completed

/-- R123, R213: 2NNN saves `pc + 2` and jumps; with `SP` = 16 it raises `StackOverflow`. -/
def Obligations.CallPushesReturnAddress : Prop :=
  (∀ nnn : Addr, decode (0x2#4 ++ nnn) = some (.call nnn)) ∧
  (∀ (nnn : Addr) (s : State) (k : Fin 16), s.sp.toNat = k.val →
    ∃ t, exec (.call nnn) s = .next t ∧ t.stack[k] = s.pc + 2#16 ∧ t.sp.toNat = k.val + 1 ∧
      t.pc.toNat = nnn.toNat ∧
      ChangesOnly s t (fun e => e = .stack k ∨ e = .sp ∨ e = .pc) ∧
      reportInstr (.call nnn) s = .completed) ∧
  (∀ (nnn : Addr) (s : State), s.sp.toNat = 16 →
    exec (.call nnn) s = .next { s with fault := 1#3 } ∧
      reportInstr (.call nnn) s = .fault 1#3 (some s.pc.toNat))

/-- R124, R125: 3XNN and 4XNN skip on equality and on inequality with the immediate. -/
def Obligations.SkipOnImmediate : Prop :=
  ∀ (x : RegIx) (nn : Byte) (s : State),
    decode (0x3#4 ++ x ++ nn) = some (.seI x nn) ∧
    decode (0x4#4 ++ x ++ nn) = some (.sneI x nn) ∧
    (∃ t, exec (.seI x nn) s = .next t ∧
      t.pc = (if s.reg x = nn then s.pc + 4#16 else s.pc + 2#16) ∧
      ChangesOnly s t (fun e => e = .pc) ∧ reportInstr (.seI x nn) s = .completed) ∧
    (∃ t, exec (.sneI x nn) s = .next t ∧
      t.pc = (if s.reg x ≠ nn then s.pc + 4#16 else s.pc + 2#16) ∧
      ChangesOnly s t (fun e => e = .pc) ∧ reportInstr (.sneI x nn) s = .completed)

/-- R126, R127: 5XY0 and 9XY0 skip on equality and on inequality of two registers. -/
def Obligations.SkipOnRegister : Prop :=
  ∀ (x y : RegIx) (s : State),
    decode (0x5#4 ++ x ++ y ++ 0x0#4) = some (.seR x y) ∧
    decode (0x9#4 ++ x ++ y ++ 0x0#4) = some (.sneR x y) ∧
    (∃ t, exec (.seR x y) s = .next t ∧
      t.pc = (if s.reg x = s.reg y then s.pc + 4#16 else s.pc + 2#16) ∧
      ChangesOnly s t (fun e => e = .pc) ∧ reportInstr (.seR x y) s = .completed) ∧
    (∃ t, exec (.sneR x y) s = .next t ∧
      t.pc = (if s.reg x ≠ s.reg y then s.pc + 4#16 else s.pc + 2#16) ∧
      ChangesOnly s t (fun e => e = .pc) ∧ reportInstr (.sneR x y) s = .completed)

/-- R128: BNNN jumps to `V0 + NNN`, not reduced modulo 4096. -/
def Obligations.IndexedJumpAddsV0 : Prop :=
  ∀ (nnn : Addr) (s : State), decode (0xB#4 ++ nnn) = some (.jpV0 nnn) ∧
    ∃ t, exec (.jpV0 nnn) s = .next t ∧ t.pc.toNat = (s.reg 0x0#4).toNat + nnn.toNat ∧
      ChangesOnly s t (fun e => e = .pc) ∧ reportInstr (.jpV0 nnn) s = .completed

/-- R120, R24: every instruction but the control transfers, the key skips and FX0A ends with
`pc <- pc + 2` when it does not fault. -/
def Obligations.OtherInstructionsAdvanceByTwo : Prop :=
  ∀ (i : Instr) (s t : State), exec i s = .next t → reportInstr i s = .completed →
    i.mnemonic ∉ ["RET", "JP", "CALL", "SE.I", "SNE.I", "SE.R", "SNE.R", "JP.V0", "SKP", "SKNP"] →
    t.pc = s.pc + 2#16

/-- R121, R123, R129: a return taken with the stack as a call left it resumes after the call, at
the depth before it. -/
def Obligations.ReturnResumesAfterCall : Prop :=
  ∀ (nnn : Addr) (s t u : State), s.sp.toNat ≤ 15 → exec (.call nnn) s = .next t →
    u.stack = t.stack → u.sp = t.sp →
    ∃ r, exec .ret u = .next r ∧ r.pc = s.pc + 2#16 ∧ r.sp = s.sp

/-! ## Register load, arithmetic, logic, shift -/

/-- R141, R142: 6XNN loads the immediate, 7XNN adds it modulo 256 without a flag. -/
def Obligations.LoadAndAddImmediate : Prop :=
  ∀ (x : RegIx) (nn : Byte) (s : State),
    decode (0x6#4 ++ x ++ nn) = some (.ldI x nn) ∧
    decode (0x7#4 ++ x ++ nn) = some (.addI x nn) ∧
    (∃ t, exec (.ldI x nn) s = .next t ∧ t.reg x = nn ∧ t.pc = s.pc + 2#16 ∧
      ChangesOnly s t (fun e => e = .reg x ∨ e = .pc) ∧
      reportInstr (.ldI x nn) s = .completed) ∧
    (∃ t, exec (.addI x nn) s = .next t ∧
      (t.reg x).toNat = ((s.reg x).toNat + nn.toNat) % 256 ∧ t.pc = s.pc + 2#16 ∧
      ChangesOnly s t (fun e => e = .reg x ∨ e = .pc) ∧
      reportInstr (.addI x nn) s = .completed)

/-- R143 to R146: 8XY0 copies VY, 8XY1 to 8XY3 combine VX and VY bit by bit; no flag is written. -/
def Obligations.MoveAndLogic : Prop :=
  ∀ (x y : RegIx) (s : State),
    decode (0x8#4 ++ x ++ y ++ 0x0#4) = some (.ldR x y) ∧
    decode (0x8#4 ++ x ++ y ++ 0x1#4) = some (.orR x y) ∧
    decode (0x8#4 ++ x ++ y ++ 0x2#4) = some (.andR x y) ∧
    decode (0x8#4 ++ x ++ y ++ 0x3#4) = some (.xorR x y) ∧
    ∀ i f, (i, f) ∈ [(Instr.ldR x y, fun _ b => b), (Instr.orR x y, fun a b => a || b),
        (Instr.andR x y, fun a b => a && b), (Instr.xorR x y, fun a b => a ^^ b)] →
      ∃ t, exec i s = .next t ∧
        (∀ j, j < 8 → (t.reg x).getLsbD j = f ((s.reg x).getLsbD j) ((s.reg y).getLsbD j)) ∧
        t.pc = s.pc + 2#16 ∧ ChangesOnly s t (fun e => e = .reg x ∨ e = .pc) ∧
        reportInstr i s = .completed

/-- R147: 8XY4 adds modulo 256; VF is 1 iff the sum exceeds 255, also when the destination is VF. -/
def Obligations.AddSetsCarry : Prop :=
  ∀ (x y : RegIx) (s : State), decode (0x8#4 ++ x ++ y ++ 0x4#4) = some (.addR x y) ∧
    ∃ t, exec (.addR x y) s = .next t ∧
      (x ≠ 0xF#4 → (t.reg x).toNat = ((s.reg x).toNat + (s.reg y).toNat) % 256) ∧
      t.reg 0xF#4 = (if 255 < (s.reg x).toNat + (s.reg y).toNat then 1#8 else 0#8) ∧
      t.pc = s.pc + 2#16 ∧ ChangesOnly s t (fun e => e = .reg x ∨ e = .reg 0xF#4 ∨ e = .pc) ∧
      reportInstr (.addR x y) s = .completed

/-- R148: 8XY5 subtracts VY from VX modulo 256; VF is 1 iff VX > VY, strictly. -/
def Obligations.SubtractSetsGreater : Prop :=
  ∀ (x y : RegIx) (s : State), decode (0x8#4 ++ x ++ y ++ 0x5#4) = some (.sub x y) ∧
    ∃ t, exec (.sub x y) s = .next t ∧
      (x ≠ 0xF#4 →
        ((t.reg x).toNat : Int) = (((s.reg x).toNat : Int) - ((s.reg y).toNat : Int)) % 256) ∧
      t.reg 0xF#4 = (if (s.reg y).toNat < (s.reg x).toNat then 1#8 else 0#8) ∧
      t.pc = s.pc + 2#16 ∧ ChangesOnly s t (fun e => e = .reg x ∨ e = .reg 0xF#4 ∨ e = .pc) ∧
      reportInstr (.sub x y) s = .completed

/-- R150: 8XY7 subtracts VX from VY into VX modulo 256; VF is 1 iff VY > VX, strictly. -/
def Obligations.SubtractReversedSetsGreater : Prop :=
  ∀ (x y : RegIx) (s : State), decode (0x8#4 ++ x ++ y ++ 0x7#4) = some (.subn x y) ∧
    ∃ t, exec (.subn x y) s = .next t ∧
      (x ≠ 0xF#4 →
        ((t.reg x).toNat : Int) = (((s.reg y).toNat : Int) - ((s.reg x).toNat : Int)) % 256) ∧
      t.reg 0xF#4 = (if (s.reg x).toNat < (s.reg y).toNat then 1#8 else 0#8) ∧
      t.pc = s.pc + 2#16 ∧ ChangesOnly s t (fun e => e = .reg x ∨ e = .reg 0xF#4 ∨ e = .pc) ∧
      reportInstr (.subn x y) s = .completed

/-- R149: 8XY6 halves VX, whatever Y is; VF is the bit shifted out. -/
def Obligations.ShiftRightSetsLowBit : Prop :=
  ∀ (x y : RegIx) (s : State), decode (0x8#4 ++ x ++ y ++ 0x6#4) = some (.shr x y) ∧
    ∃ t, exec (.shr x y) s = .next t ∧
      (x ≠ 0xF#4 → (t.reg x).toNat = (s.reg x).toNat / 2) ∧
      (t.reg 0xF#4).toNat = (s.reg x).toNat % 2 ∧
      t.pc = s.pc + 2#16 ∧ ChangesOnly s t (fun e => e = .reg x ∨ e = .reg 0xF#4 ∨ e = .pc) ∧
      reportInstr (.shr x y) s = .completed

/-- R151: 8XYE doubles VX modulo 256, whatever Y is; VF is the bit shifted out. -/
def Obligations.ShiftLeftSetsHighBit : Prop :=
  ∀ (x y : RegIx) (s : State), decode (0x8#4 ++ x ++ y ++ 0xE#4) = some (.shl x y) ∧
    ∃ t, exec (.shl x y) s = .next t ∧
      (x ≠ 0xF#4 → (t.reg x).toNat = (s.reg x).toNat * 2 % 256) ∧
      (t.reg 0xF#4).toNat = (s.reg x).toNat / 128 ∧
      t.pc = s.pc + 2#16 ∧ ChangesOnly s t (fun e => e = .reg x ∨ e = .reg 0xF#4 ∨ e = .pc) ∧
      reportInstr (.shl x y) s = .completed

/-- R22: exactly seven instructions write VF as a flag; any other instruction leaves VF as it is
unless VF is its destination. -/
def Obligations.OnlySevenInstructionsWriteTheFlag : Prop :=
  ∀ (i : Instr) (s t : State), exec i s = .next t → t.reg 0xF#4 ≠ s.reg 0xF#4 →
    i.mnemonic ∈ ["ADD.R", "SUB", "SHR", "SUBN", "SHL", "DRW", "ADD.IDX"] ∨
    (∃ nn, i = .ldI 0xF#4 nn) ∨ (∃ nn, i = .addI 0xF#4 nn) ∨ (∃ nn, i = .rnd 0xF#4 nn) ∨
    (∃ y, i = .ldR 0xF#4 y ∨ i = .orR 0xF#4 y ∨ i = .andR 0xF#4 y ∨ i = .xorR 0xF#4 y) ∨
    i = .ldGdt 0xF#4 ∨ i = .ldKey 0xF#4 ∨ i = .ldRegs 0xF#4

/-! ## Index register and memory -/

/-- R160, R162: ANNN loads the immediate into `I`, FX29 five times VX; both leave `I` <= 0xFFF. -/
def Obligations.LoadIndexAndFont : Prop :=
  ∀ (nnn : Addr) (x : RegIx) (s : State),
    decode (0xA#4 ++ nnn) = some (.ldIdx nnn) ∧
    decode (0xF#4 ++ x ++ 0x29#8) = some (.ldFont x) ∧
    (∃ t, exec (.ldIdx nnn) s = .next t ∧ t.i.toNat = nnn.toNat ∧ t.pc = s.pc + 2#16 ∧
      ChangesOnly s t (fun e => e = .idx ∨ e = .pc) ∧
      reportInstr (.ldIdx nnn) s = .completed) ∧
    (∃ t, exec (.ldFont x) s = .next t ∧ t.i.toNat = (s.reg x).toNat * 5 ∧
      t.pc = s.pc + 2#16 ∧ ChangesOnly s t (fun e => e = .idx ∨ e = .pc) ∧
      reportInstr (.ldFont x) s = .completed)

/-- R161: FX1E leaves the sum modulo 4096 in `I`; VF is 1 iff the unreduced sum exceeds 0xFFF. -/
def Obligations.AddToIndexSetsOverflow : Prop :=
  ∀ (x : RegIx) (s : State), decode (0xF#4 ++ x ++ 0x1E#8) = some (.addIdx x) ∧
    ∃ t, exec (.addIdx x) s = .next t ∧
      t.i.toNat = (s.i.toNat + (s.reg x).toNat) % 4096 ∧
      t.reg 0xF#4 = (if 0xFFF < s.i.toNat + (s.reg x).toNat then 1#8 else 0#8) ∧
      t.pc = s.pc + 2#16 ∧ ChangesOnly s t (fun e => e = .idx ∨ e = .reg 0xF#4 ∨ e = .pc) ∧
      reportInstr (.addIdx x) s = .completed

/-- R163, R66: FX33 stores the three decimal digits of VX at `I`, `I + 1`, `I + 2` and nothing
else; below 0x050 it raises `FontWrite`, past 0xFFF `MemRange`, storing nothing. -/
def Obligations.StoreDecimalDigits : Prop :=
  (∀ x : RegIx, decode (0xF#4 ++ x ++ 0x33#8) = some (.ldBcd x)) ∧
  (∀ (x : RegIx) (s : State), 0x050 ≤ s.i.toNat → s.i.toNat + 2 ≤ 0xFFF →
    ∃ t, exec (.ldBcd x) s = .next t ∧
      (Memory.read t.mem s.i.toNat).toNat = (s.reg x).toNat / 100 ∧
      (Memory.read t.mem (s.i.toNat + 1)).toNat = (s.reg x).toNat / 10 % 10 ∧
      (Memory.read t.mem (s.i.toNat + 2)).toNat = (s.reg x).toNat % 10 ∧
      t.pc = s.pc + 2#16 ∧
      ChangesOnly s t (fun e => e = .pc ∨ ∃ k, k < 3 ∧ e = .byte (s.i.toNat + k)) ∧
      reportInstr (.ldBcd x) s = .completed) ∧
  (∀ (x : RegIx) (s : State), s.i.toNat ≤ 0x04F →
    exec (.ldBcd x) s = .next { s with fault := 5#3 } ∧
      reportInstr (.ldBcd x) s = .fault 5#3 (some s.i.toNat)) ∧
  (∀ (x : RegIx) (s : State), 0xFFF < s.i.toNat + 2 →
    exec (.ldBcd x) s = .next { s with fault := 4#3 } ∧
      reportInstr (.ldBcd x) s = .fault 4#3 (some (s.i.toNat + 2)))

/-- R164, R66: FX55 stores V0 to VX at `I` to `I + X` and nothing else; below 0x050 it raises
`FontWrite`, past 0xFFF `MemRange`, storing nothing. -/
def Obligations.StoreRegisters : Prop :=
  (∀ x : RegIx, decode (0xF#4 ++ x ++ 0x55#8) = some (.stRegs x)) ∧
  (∀ (x : RegIx) (s : State), 0x050 ≤ s.i.toNat → s.i.toNat + x.toNat ≤ 0xFFF →
    ∃ t, exec (.stRegs x) s = .next t ∧
      (∀ k : RegIx, k.toNat ≤ x.toNat → Memory.read t.mem (s.i.toNat + k.toNat) = s.reg k) ∧
      t.pc = s.pc + 2#16 ∧
      ChangesOnly s t (fun e => e = .pc ∨ ∃ k, k ≤ x.toNat ∧ e = .byte (s.i.toNat + k)) ∧
      reportInstr (.stRegs x) s = .completed) ∧
  (∀ (x : RegIx) (s : State), s.i.toNat ≤ 0x04F →
    exec (.stRegs x) s = .next { s with fault := 5#3 } ∧
      reportInstr (.stRegs x) s = .fault 5#3 (some s.i.toNat)) ∧
  (∀ (x : RegIx) (s : State), 0xFFF < s.i.toNat + x.toNat →
    exec (.stRegs x) s = .next { s with fault := 4#3 } ∧
      reportInstr (.stRegs x) s = .fault 4#3 (some (s.i.toNat + x.toNat)))

/-- R165, R65: FX65 loads V0 to VX from `I` to `I + X` and changes no other register; past 0xFFF
it raises `MemRange`, loading nothing. -/
def Obligations.LoadRegisters : Prop :=
  (∀ x : RegIx, decode (0xF#4 ++ x ++ 0x65#8) = some (.ldRegs x)) ∧
  (∀ (x : RegIx) (s : State), s.i.toNat + x.toNat ≤ 0xFFF →
    ∃ t, exec (.ldRegs x) s = .next t ∧
      (∀ k : RegIx, k.toNat ≤ x.toNat → t.reg k = Memory.read s.mem (s.i.toNat + k.toNat)) ∧
      t.pc = s.pc + 2#16 ∧
      ChangesOnly s t (fun e => e = .pc ∨ ∃ k : RegIx, k.toNat ≤ x.toNat ∧ e = .reg k) ∧
      reportInstr (.ldRegs x) s = .completed) ∧
  (∀ (x : RegIx) (s : State), 0xFFF < s.i.toNat + x.toNat →
    exec (.ldRegs x) s = .next { s with fault := 4#3 } ∧
      reportInstr (.ldRegs x) s = .fault 4#3 (some (s.i.toNat + x.toNat)))

/-- R164, R165 and the source's round trip (S4): registers stored by FX55 are loaded back by FX65
into any state with that memory and that `I`. -/
def Obligations.LoadRestoresStoredRegisters : Prop :=
  ∀ (x : RegIx) (s t u : State), 0x050 ≤ s.i.toNat → s.i.toNat + x.toNat ≤ 0xFFF →
    exec (.stRegs x) s = .next t → u.mem = t.mem → u.i = s.i →
    ∃ r, exec (.ldRegs x) u = .next r ∧ ∀ k : RegIx, k.toNat ≤ x.toNat → r.reg k = s.reg k

/-- R72, R62: bytes stored by FX55 are what a later fetch reads, the lower address high. -/
def Obligations.StoreIsSeenByFetch : Prop :=
  ∀ (x k j : RegIx) (s t u : State), 0x050 ≤ s.i.toNat → s.i.toNat + x.toNat ≤ 0xFFF →
    exec (.stRegs x) s = .next t → u.mem = t.mem →
    j.toNat = k.toNat + 1 → j.toNat ≤ x.toNat → u.pc.toNat = s.i.toNat + k.toNat →
    ∃ w, u.fetch = some w ∧ w.toNat = (s.reg k).toNat * 256 + (s.reg j).toNat

/-! ## Display -/

/-- R181: 00E0 clears every cell and sets `redraw`, also on a clear display. -/
def Obligations.ClearDisplay : Prop :=
  decode 0x00E0#16 = some .cls ∧
  ∀ s : State, ∃ t, exec .cls s = .next t ∧
    (∀ r c, r < 32 → c < 64 → Display.cell t.disp r c = false) ∧ t.redraw = true ∧
    t.pc = s.pc + 2#16 ∧
    ChangesOnly s t (fun e => (∃ r c, e = .cell r c) ∨ e = .redraw ∨ e = .pc) ∧
    reportInstr .cls s = .completed

/-- R182: DXYN exclusive-ors the sprite onto the display, wrapping on both axes; VF is 1 iff some
cell went from 1 to 0; `redraw` is set iff some cell changed; past 0xFFF it raises `MemRange`. -/
def Obligations.DrawSprite : Prop :=
  (∀ (x y : RegIx) (n : Nibble), decode (0xD#4 ++ x ++ y ++ n) = some (.drw x y n)) ∧
  (∀ (x y : RegIx) (n : Nibble) (s : State), n = 0#4 ∨ s.i.toNat + n.toNat - 1 ≤ 0xFFF →
    ∃ t, exec (.drw x y n) s = .next t ∧
      (∀ (r : Fin 32) (c : Fin 64), SpriteBitOn s x y n r c →
        Display.cell t.disp r c = !Display.cell s.disp r c) ∧
      (∀ (r : Fin 32) (c : Fin 64), ¬ SpriteBitOn s x y n r c →
        Display.cell t.disp r c = Display.cell s.disp r c) ∧
      ((∃ (r : Fin 32) (c : Fin 64), SpriteBitOn s x y n r c ∧
          Display.cell s.disp r c = true) → t.reg 0xF#4 = 1#8) ∧
      ((¬ ∃ (r : Fin 32) (c : Fin 64), SpriteBitOn s x y n r c ∧
          Display.cell s.disp r c = true) → t.reg 0xF#4 = 0#8) ∧
      (t.redraw = true ↔
        s.redraw = true ∨ ∃ (r : Fin 32) (c : Fin 64), SpriteBitOn s x y n r c) ∧
      t.pc = s.pc + 2#16 ∧
      ChangesOnly s t (fun e => (∃ r c, e = .cell r c) ∨ e = .reg 0xF#4 ∨ e = .redraw ∨ e = .pc) ∧
      reportInstr (.drw x y n) s = .completed) ∧
  (∀ (x y : RegIx) (n : Nibble) (s : State), 1 ≤ n.toNat → 0xFFF < s.i.toNat + n.toNat - 1 →
    exec (.drw x y n) s = .next { s with fault := 4#3 } ∧
      reportInstr (.drw x y n) s = .fault 4#3 (some (s.i.toNat + n.toNat - 1)))

/-- R183 (a), (b): the same DXYN twice in a row, with X and Y other than 15, restores the display;
VF is then 1 iff some sprite bit is 1 on a cell that was 0 before the first. -/
def Obligations.DrawTwiceRestoresDisplay : Prop :=
  ∀ (x y : RegIx) (n : Nibble) (s : State), x ≠ 0xF#4 → y ≠ 0xF#4 →
    (n = 0#4 ∨ s.i.toNat + n.toNat - 1 ≤ 0xFFF) →
    ∃ t u, exec (.drw x y n) s = .next t ∧ exec (.drw x y n) t = .next u ∧ u.disp = s.disp ∧
      (u.reg 0xF#4 = 1#8 ↔ ∃ (r : Fin 32) (c : Fin 64), SpriteBitOn s x y n r c ∧
        Display.cell s.disp r c = false)

/-- R31: a step that changes some display cell leaves `redraw` set, and no step clears it. -/
def Obligations.RedrawFollowsDisplayChanges : Prop :=
  ∀ s t : State, step s = .next t →
    ((∃ (r : Fin 32) (c : Fin 64), Display.cell t.disp r c ≠ Display.cell s.disp r c) →
      t.redraw = true) ∧
    (s.redraw = true → t.redraw = true)

/-! ## Random, keys, timers -/

/-- R190: CXNN loads the drawn byte masked by NN, so no bit outside NN; each execution draws
afresh. Holds for every value of the draw. That a counter of the model numbers the draws is the
model's choice (log entries 5, 7). -/
def Obligations.RandomIsMasked : Prop :=
  ∀ (x : RegIx) (nn : Byte) (s : State), decode (0xC#4 ++ x ++ nn) = some (.rnd x nn) ∧
    ∃ t, exec (.rnd x nn) s = .next t ∧
      (∀ j, j < 8 → (t.reg x).getLsbD j = ((Config.rnd s.draws).getLsbD j && nn.getLsbD j)) ∧
      (t.reg x) &&& ~~~nn = 0#8 ∧ t.draws = s.draws + 1 ∧ t.pc = s.pc + 2#16 ∧
      ChangesOnly s t (fun e => e = .reg x ∨ e = .draws ∨ e = .pc) ∧
      reportInstr (.rnd x nn) s = .completed

/-- R191, R192, R218: EX9E and EXA1 skip on the key that VX names being pressed or not; a key
number above 15 raises `KeyRange`. -/
def Obligations.KeySkips : Prop :=
  (∀ x : RegIx, decode (0xE#4 ++ x ++ 0x9E#8) = some (.skp x) ∧
    decode (0xE#4 ++ x ++ 0xA1#8) = some (.sknp x)) ∧
  (∀ (x : RegIx) (k : Fin 16) (s : State), (s.reg x).toNat = k.val →
    (∃ t, exec (.skp x) s = .next t ∧
      t.pc = (if s.key[k] = true then s.pc + 4#16 else s.pc + 2#16) ∧
      ChangesOnly s t (fun e => e = .pc) ∧ reportInstr (.skp x) s = .completed) ∧
    (∃ t, exec (.sknp x) s = .next t ∧
      t.pc = (if s.key[k] = false then s.pc + 4#16 else s.pc + 2#16) ∧
      ChangesOnly s t (fun e => e = .pc) ∧ reportInstr (.sknp x) s = .completed)) ∧
  (∀ (x : RegIx) (s : State), 0x0F < (s.reg x).toNat → ∀ i, i = .skp x ∨ i = .sknp x →
    exec i s = .next { s with fault := 6#3 } ∧
      reportInstr i s = .fault 6#3 (some (s.reg x).toNat))

/-- R194: FX0A waits, writing nothing, while no key is pressed; else it loads the number of some
pressed key, whichever the input source answers. The draw counter is the model's (log entries
6, 7). -/
def Obligations.KeyWaitLoadsAPressedKey : Prop :=
  (∀ x : RegIx, decode (0xF#4 ++ x ++ 0x0A#8) = some (.ldKey x)) ∧
  (∀ (x : RegIx) (s : State), (∀ k : Fin 16, s.key[k] = false) →
    exec (.ldKey x) s = .next s ∧ reportInstr (.ldKey x) s = .waiting) ∧
  (∀ (x : RegIx) (s : State), (∃ k : Fin 16, s.key[k] = true) →
    ∃ t, exec (.ldKey x) s = .next t ∧
      (∃ k : Fin 16, s.key[k] = true ∧ (t.reg x).toNat = k.val) ∧ t.pc = s.pc + 2#16 ∧
      ChangesOnly s t (fun e => e = .reg x ∨ e = .draws ∨ e = .pc) ∧
      reportInstr (.ldKey x) s = .completed)

/-- R193, R195, R196: FX07 reads the delay timer, FX15 writes it, FX18 writes the sound timer. -/
def Obligations.TimerInstructions : Prop :=
  ∀ (x : RegIx) (s : State),
    decode (0xF#4 ++ x ++ 0x07#8) = some (.ldGdt x) ∧
    decode (0xF#4 ++ x ++ 0x15#8) = some (.ldSdt x) ∧
    decode (0xF#4 ++ x ++ 0x18#8) = some (.ldSst x) ∧
    (∃ t, exec (.ldGdt x) s = .next t ∧ t.reg x = s.dt ∧ t.pc = s.pc + 2#16 ∧
      ChangesOnly s t (fun e => e = .reg x ∨ e = .pc) ∧
      reportInstr (.ldGdt x) s = .completed) ∧
    (∃ t, exec (.ldSdt x) s = .next t ∧ t.dt = s.reg x ∧ t.pc = s.pc + 2#16 ∧
      ChangesOnly s t (fun e => e = .dt ∨ e = .pc) ∧
      reportInstr (.ldSdt x) s = .completed) ∧
    (∃ t, exec (.ldSst x) s = .next t ∧ t.st = s.reg x ∧ t.pc = s.pc + 2#16 ∧
      ChangesOnly s t (fun e => e = .st ∨ e = .pc) ∧
      reportInstr (.ldSst x) s = .completed)

/-! ## Events -/

/-- R227: `Tick` takes 1 from each timer that is above 0 and touches nothing else, in any state,
faulted or waiting too. -/
def Obligations.TickCountsDown : Prop :=
  ∀ s : State, ∃ t, applyEvent .tick s = .next t ∧
    (0 < s.dt.toNat → t.dt.toNat + 1 = s.dt.toNat) ∧ (s.dt.toNat = 0 → t.dt.toNat = 0) ∧
    (0 < s.st.toNat → t.st.toNat + 1 = s.st.toNat) ∧ (s.st.toNat = 0 → t.st.toNat = 0) ∧
    ChangesOnly s t (fun e => e = .dt ∨ e = .st)

/-- R228, R229, R230, R231: `KeyWrite` writes one key flag, `RedrawAck` clears `redraw`, the two
observations return what they observe and change nothing. -/
def Obligations.HostEventsTouchOnlyTheirElement : Prop :=
  ∀ s : State,
    (∀ (k : Fin 16) (b : Bool), ∃ t, applyEvent (.keyWrite k b) s = .next t ∧ t.key[k] = b ∧
      ChangesOnly s t (fun e => e = .key k)) ∧
    (∃ t, applyEvent .redrawAck s = .next t ∧ t.redraw = false ∧
      ChangesOnly s t (fun e => e = .redraw)) ∧
    (applyEvent .displayRead s = .next s ∧ respond .displayRead s = .display s.disp s.redraw) ∧
    (applyEvent .soundObserve s = .next s ∧ respond .soundObserve s = .sound s.st)

/-- R30: only the `KeyWrite` event writes the keyboard latch; a step never does, nor does `Reset`. -/
def Obligations.OnlyKeyWriteChangesKeys : Prop :=
  ∀ (e : Event) (s t : State), applyEvent e s = .next t → t.key ≠ s.key →
    ∃ k b, e = .keyWrite k b

/-- R36, R250, R251: `Reset` with an image of at most 3584 bytes: the font, zeroes, the image at
0x200; everything else 0 but `pc`, `redraw` (the open parameter), and `key` (not written). The
draw counter, kept, is the model's (log entry 7). -/
def Obligations.ResetLoadsTheImage : Prop :=
  ∀ (s : State) (rom : List Byte), rom.length ≤ 3584 →
    ∃ t, applyEvent (.reset (some rom)) s = .next t ∧
      (∀ a, a ≤ 0x04F → Memory.read t.mem a = Config.font a) ∧
      (∀ a, 0x050 ≤ a → a ≤ 0x1FF → Memory.read t.mem a = 0#8) ∧
      (∀ j (h : j < rom.length), Memory.read t.mem (0x200 + j) = rom[j]) ∧
      (∀ a, 0x200 + rom.length ≤ a → a ≤ 0xFFF → Memory.read t.mem a = 0#8) ∧
      (∀ k : RegIx, t.reg k = 0#8) ∧ t.i = 0#16 ∧ t.pc = 0x0200#16 ∧
      (∀ k : Fin 16, t.stack[k] = 0#16) ∧ t.sp = 0#5 ∧ t.dt = 0#8 ∧ t.st = 0#8 ∧
      (∀ r c, r < 32 → c < 64 → Display.cell t.disp r c = false) ∧
      t.redraw = Config.redrawAtReset ∧ t.key = s.key ∧ t.fault = 0#3 ∧ t.draws = s.draws

/-- R252, R219: `Reset` with no image or one longer than 3584 bytes initialises as with an empty
image, and latches `RomLoadFailure`; every step then reports it and executes nothing. -/
def Obligations.ResetWithoutImageLatchesFailure : Prop :=
  ∀ (s : State) (rom : Option (List Byte)),
    (rom = none ∨ ∃ bytes, rom = some bytes ∧ 3584 < bytes.length) →
    ∃ t u, applyEvent (.reset rom) s = .next t ∧ applyEvent (.reset (some [])) s = .next u ∧
      t = { u with fault := 7#3 } ∧ step t = .next t ∧ report t = .fault 7#3 none

/-- R36 and log entries 2, 7, 10: the launch state is what a `Reset` with the empty image leaves,
with every key released (the model's choice) and no draw made. -/
def Obligations.LaunchStateIsAReset : Prop :=
  ∀ s : State, ∃ t, applyEvent (.reset (some [])) s = .next t ∧
    { t with key := Vector.replicate 16 false, draws := 0 } = State.reset

/-! ## The whole machine -/

/-- The invariant holds after every `Reset`, and in the launch state `State.reset` (log entry 10).
`I` <= 0xFFF, `SP` <= 16 and the intact font are R37 (a), (b), (d), which the spec marks as derived;
that memory is in canonical form is the model's own clause, about its representation (log
entry 9). -/
def Obligations.ResetMeetsInvariant : Prop :=
  Inv State.reset ∧ ∀ (s : State) (rom : Option (List Byte)), Inv (s.resetWith rom)

/-- Every step keeps the invariant. `I` <= 0xFFF, `SP` <= 16 and the intact font are R37 (a), (b),
(d), which the spec marks as derived; that memory is in canonical form is the model's own clause,
about its representation (log entry 9). -/
def Obligations.StepKeepsInvariant : Prop :=
  ∀ s t : State, Inv s → step s = .next t → Inv t

/-- What holds in every state that a schedule of events reaches from the launch state, which is the
model's (log entry 10). `I` <= 0xFFF, `SP` <= 16 and the font are R37 (a), (b), (d), which the spec
marks as derived; `Memory.wf` is the model's own clause, about its representation (log entry 9). -/
def Obligations.EveryReachableStateIsLegal : Prop :=
  ∀ (es : List Event) (t : State), runEvents es State.reset = .next t →
    t.i.toNat ≤ 0xFFF ∧ t.sp.toNat ≤ 16 ∧ Memory.wf t.mem = true ∧
      ∀ a, a ≤ 0x04F → Memory.read t.mem a = Config.font a

/-- R237: the model never stops: under any schedule from the launch state, which is the model's (log
entry 10), every event has a next state; no instruction is refused and no fault of the spec ends the
run. The model's one stop, a stack pointer of 17 to 31 (log entry 8), is never reached. -/
def Obligations.NoScheduleStopsTheModel : Prop :=
  ∀ es : List Event, ∃ t, runEvents es State.reset = .next t

/-- R38: what each instruction may write. An instruction either takes a fault or changes nothing
but the elements the table gives it. The draw counter that CXNN and FX0A may write beside them is the
model's own (log entry 7), no element of R38. -/
def Obligations.FrameOfEveryInstruction : Prop :=
  ∀ (i : Instr) (s t : State), exec i s = .next t →
    (∃ c : Cause, t = { s with fault := c.code }) ∨ ChangesOnly s t (MayWrite i s)

/-- R24, R130: `pc` is never above 0x10FE and no saved return address above 0x1000: every step
keeps that, so no addition on `pc` wraps. -/
def Obligations.PcAndReturnAddressesStayBounded : Prop :=
  ∀ s t : State, s.pc.toNat ≤ 0x10FE → (∀ k : Fin 16, s.stack[k].toNat ≤ 0x1000) →
    step s = .next t → t.pc.toNat ≤ 0x10FE ∧ ∀ k : Fin 16, t.stack[k].toNat ≤ 0x1000

/-- R28, R31: no instruction reads the sound timer or the redraw flag: two states that differ in
them only stay so after a step, and the steps report the same. -/
def Obligations.SoundAndRedrawAreNeverRead : Prop :=
  ∀ (s t : State) (a : Byte) (r : Bool), step s = .next t →
    report { s with st := a, redraw := r } = report s ∧
    ∃ u, step { s with st := a, redraw := r } = .next u ∧
      { u with st := 0#8, redraw := false } = { t with st := 0#8, redraw := false }

/-- R258, a definition that the spec marks as its own: at a jump to itself the run has ended, and
every step completes and changes nothing. -/
def Obligations.SelfJumpIsAFixedPoint : Prop :=
  ∀ (e : Addr) (s : State), EndedAt e s → step s = .next s ∧ report s = .completed
end

