-- ==== Sys2Proof/Laws/Memory.lean ====
section
/-!
SUPPORT. Memory: a read after a write, and that every operation keeps the canonical form.
-/
namespace Sys2Proof.Machine

/-! ## Reading -/

/-- The cells of other addresses do not matter to a read. -/
theorem Memory.read_filter_ne (m : List Host.Cell) (a b : Nat) :
    Memory.read (m.filter fun c => c.1 ≠ a) b =
      if b = a then Memory.unlisted b else Memory.read m b := by
  induction m with
  | nil => simp [Memory.read]
  | cons c m ih =>
    by_cases hc : c.1 = a
    · rw [List.filter_cons_of_neg (by simp [hc]), ih]
      by_cases hb : b = a
      · simp [hb]
      · have : ¬ c.1 = b := fun h => hb (h.symm.trans hc)
        simp [hb, Memory.read, this]
    · rw [List.filter_cons_of_pos (by simp [hc])]
      by_cases hb : b = a
      · subst hb
        simp only [Memory.read, if_neg hc, ih, if_true]
      · simp only [Memory.read, ih, if_neg hb]

/-- A cell put into a memory that lists no cell of its address is what its address reads. -/
theorem Memory.read_insert (c : Host.Cell) (m : List Host.Cell) (b : Nat)
    (h : ∀ d ∈ m, d.1 ≠ c.1) :
    Memory.read (Memory.insert c m) b = if b = c.1 then c.2 else Memory.read m b := by
  induction m with
  | nil =>
    by_cases hb : b = c.1
    · simp [Memory.insert, Memory.read, hb]
    · simp [Memory.insert, Memory.read, hb, Ne.symm hb]
  | cons d m ih =>
    have hd : d.1 ≠ c.1 := h d (by simp)
    simp only [Memory.insert]
    split
    · by_cases hb : b = c.1
      · simp [Memory.read, hb]
      · simp [Memory.read, hb, Ne.symm hb]
    · simp only [Memory.read, ih (fun e he => h e (by simp [he]))]
      by_cases hb : b = c.1
      · simp [hb, hd]
      · simp [hb]

/-- A read after a write: the byte written at its address, every other address as before. -/
@[simp] theorem Memory.read_write (m : List Host.Cell) (a b : Nat) (x : Byte) :
    Memory.read (Memory.write m a x) b = if b = a then x else Memory.read m b := by
  unfold Memory.write
  split
  · rename_i h
    rw [Memory.read_filter_ne]
    split <;> simp_all
  · rw [Memory.read_insert _ _ _ (by simp), Memory.read_filter_ne]
    split <;> simp_all

/-- A read after a sequence of stores: the stored byte inside it, as before outside it. -/
theorem Memory.read_store (m : List Host.Cell) (a b : Nat) (bs : List Byte) :
    Memory.read (Memory.store m a bs) b =
      if a ≤ b ∧ b < a + bs.length then bs.getD (b - a) 0 else Memory.read m b := by
  induction bs generalizing m a with
  | nil =>
    have : ¬ (a ≤ b ∧ b < a) := by omega
    simp [Memory.store, this]
  | cons x bs ih =>
    rw [Memory.store, ih, Memory.read_write, List.length_cons]
    by_cases h1 : b = a
    · subst h1
      simp
    · by_cases h2 : a + 1 ≤ b ∧ b < a + 1 + bs.length
      · have e : b - a = (b - (a + 1)) + 1 := by omega
        rw [if_pos h2, if_pos (by omega), e, List.getD_cons_succ]
      · rw [if_neg h2, if_neg h1, if_neg (by omega)]

/-- The bytes a load reads. -/
theorem Memory.getElem?_load (m : List Host.Cell) (a n k : Nat) (h : k < n) :
    (Memory.load m a n)[k]? = some (Memory.read m (a + k)) := by
  simp [Memory.load, h]

/-- How many bytes a load reads. -/
@[simp] theorem Memory.length_load (m : List Host.Cell) (a n : Nat) :
    (Memory.load m a n).length = n := by
  simp [Memory.load]

/-! ## The canonical form -/

/-- The head of a canonical memory, and its tail. -/
theorem Memory.wf_cons (c : Host.Cell) (m : List Host.Cell) :
    Memory.wf (c :: m) = true ↔
      (c.1 ≤ 0xFFF ∧ c.2 ≠ Memory.unlisted c.1) ∧ (∀ d ∈ m, c.1 < d.1) ∧ Memory.wf m = true := by
  simp [Memory.wf, and_assoc]

/-- Removing an address keeps the canonical form. -/
theorem Memory.wf_filter (m : List Host.Cell) (p : Host.Cell → Bool) (h : Memory.wf m = true) :
    Memory.wf (m.filter p) = true := by
  induction m with
  | nil => rfl
  | cons c m ih =>
    rw [Memory.wf_cons] at h
    by_cases hp : p c = true
    · rw [List.filter_cons_of_pos hp, Memory.wf_cons]
      exact ⟨h.1, fun d hd => h.2.1 d (List.mem_filter.1 hd).1, ih h.2.2⟩
    · rw [List.filter_cons_of_neg hp]
      exact ih h.2.2

/-- The cells after an insertion. -/
theorem Memory.mem_insert (c d : Host.Cell) (m : List Host.Cell) :
    d ∈ Memory.insert c m ↔ d = c ∨ d ∈ m := by
  induction m with
  | nil => simp [Memory.insert]
  | cons e m ih =>
    simp only [Memory.insert]
    split
    · simp
    · simp only [List.mem_cons, ih]
      tauto

/-- Inserting a cell of a new address that is worth listing keeps the canonical form. -/
theorem Memory.wf_insert (c : Host.Cell) (m : List Host.Cell) (hm : Memory.wf m = true)
    (hc : c.1 ≤ 0xFFF ∧ c.2 ≠ Memory.unlisted c.1) (h : ∀ d ∈ m, d.1 ≠ c.1) :
    Memory.wf (Memory.insert c m) = true := by
  induction m with
  | nil => simp [Memory.insert, Memory.wf, hc]
  | cons d m ih =>
    have hd : d.1 ≠ c.1 := h d (by simp)
    have hw := (Memory.wf_cons d m).1 hm
    simp only [Memory.insert]
    split
    · rename_i hlt
      refine (Memory.wf_cons _ _).2 ⟨hc, ?_, hm⟩
      intro e he
      rcases List.mem_cons.1 he with rfl | he
      · exact hlt
      · exact hlt.trans (hw.2.1 e he)
    · refine (Memory.wf_cons _ _).2 ⟨hw.1, ?_, ih hw.2.2 fun e he => h e (by simp [he])⟩
      intro e he
      rcases (Memory.mem_insert _ _ _).1 he with rfl | he
      · omega
      · exact hw.2.1 e he

/-- A write inside the address space keeps the canonical form. -/
theorem Memory.wf_write (m : List Host.Cell) (a : Nat) (b : Byte) (hm : Memory.wf m = true)
    (ha : a ≤ 0xFFF) : Memory.wf (Memory.write m a b) = true := by
  unfold Memory.write
  split
  · exact Memory.wf_filter m _ hm
  · rename_i hb
    exact Memory.wf_insert (a, b) _ (Memory.wf_filter m _ hm) ⟨ha, hb⟩ (by simp)

/-- Stores inside the address space keep the canonical form. -/
theorem Memory.wf_store (m : List Host.Cell) (a : Nat) (bs : List Byte) (hm : Memory.wf m = true)
    (ha : a + bs.length ≤ 0x1000) : Memory.wf (Memory.store m a bs) = true := by
  induction bs generalizing m a with
  | nil => exact hm
  | cons b bs ih =>
    rw [List.length_cons] at ha
    exact ih _ _ (Memory.wf_write m a b hm (by omega)) (by omega)

/-! ## The font -/

/-- A memory whose font is intact reads `FONT` there. -/
theorem Memory.read_font (m : List Host.Cell) (a : Nat) (h : Memory.fontIntact m = true)
    (ha : a ≤ 0x04F) : Memory.read m a = Config.font a := by
  induction m with
  | nil => simp [Memory.read, Memory.unlisted, ha]
  | cons c m ih =>
    simp only [Memory.fontIntact, List.all_cons, Bool.and_eq_true, decide_eq_true_eq] at h ih
    have hc : ¬ c.1 = a := by omega
    rw [Memory.read, if_neg hc, ih h.2]

/-- A write above the font keeps the font intact. -/
theorem Memory.fontIntact_write (m : List Host.Cell) (a : Nat) (b : Byte)
    (hm : Memory.fontIntact m = true) (ha : 0x04F < a) :
    Memory.fontIntact (Memory.write m a b) = true := by
  simp only [Memory.fontIntact, List.all_eq_true, decide_eq_true_eq] at hm ⊢
  intro d hd
  unfold Memory.write at hd
  split at hd
  · exact hm d (List.mem_filter.1 hd).1
  · rcases (Memory.mem_insert _ _ _).1 hd with rfl | hd
    · exact ha
    · exact hm d (List.mem_filter.1 hd).1

/-- Stores above the font keep the font intact. -/
theorem Memory.fontIntact_store (m : List Host.Cell) (a : Nat) (bs : List Byte)
    (hm : Memory.fontIntact m = true) (ha : 0x04F < a) :
    Memory.fontIntact (Memory.store m a bs) = true := by
  induction bs generalizing m a with
  | nil => exact hm
  | cons b bs ih => exact ih _ _ (Memory.fontIntact_write m a b hm ha) (by omega)

end Sys2Proof.Machine
end

