-- ==== Sys2Proof/Laws/State.lean ====
section
/-!
SUPPORT. What each field is after each named update: one lemma per field per update.
-/
namespace Sys2Proof.Machine

variable (s : State)

/-! ## setMem -/

@[simp] theorem State.setMem_mem (m : List Host.Cell) : (s.setMem m).mem = m := rfl
@[simp] theorem State.setMem_v (m : List Host.Cell) : (s.setMem m).v = s.v := rfl
@[simp] theorem State.setMem_i (m : List Host.Cell) : (s.setMem m).i = s.i := rfl
@[simp] theorem State.setMem_pc (m : List Host.Cell) : (s.setMem m).pc = s.pc := rfl
@[simp] theorem State.setMem_stack (m : List Host.Cell) : (s.setMem m).stack = s.stack := rfl
@[simp] theorem State.setMem_sp (m : List Host.Cell) : (s.setMem m).sp = s.sp := rfl
@[simp] theorem State.setMem_dt (m : List Host.Cell) : (s.setMem m).dt = s.dt := rfl
@[simp] theorem State.setMem_st (m : List Host.Cell) : (s.setMem m).st = s.st := rfl
@[simp] theorem State.setMem_disp (m : List Host.Cell) : (s.setMem m).disp = s.disp := rfl
@[simp] theorem State.setMem_key (m : List Host.Cell) : (s.setMem m).key = s.key := rfl
@[simp] theorem State.setMem_redraw (m : List Host.Cell) : (s.setMem m).redraw = s.redraw := rfl
@[simp] theorem State.setMem_fault (m : List Host.Cell) : (s.setMem m).fault = s.fault := rfl
@[simp] theorem State.setMem_draws (m : List Host.Cell) : (s.setMem m).draws = s.draws := rfl

/-! ## setRegs -/

@[simp] theorem State.setRegs_mem (r : Regs) : (s.setRegs r).mem = s.mem := rfl
@[simp] theorem State.setRegs_v (r : Regs) : (s.setRegs r).v = r := rfl
@[simp] theorem State.setRegs_i (r : Regs) : (s.setRegs r).i = s.i := rfl
@[simp] theorem State.setRegs_pc (r : Regs) : (s.setRegs r).pc = s.pc := rfl
@[simp] theorem State.setRegs_stack (r : Regs) : (s.setRegs r).stack = s.stack := rfl
@[simp] theorem State.setRegs_sp (r : Regs) : (s.setRegs r).sp = s.sp := rfl
@[simp] theorem State.setRegs_dt (r : Regs) : (s.setRegs r).dt = s.dt := rfl
@[simp] theorem State.setRegs_st (r : Regs) : (s.setRegs r).st = s.st := rfl
@[simp] theorem State.setRegs_disp (r : Regs) : (s.setRegs r).disp = s.disp := rfl
@[simp] theorem State.setRegs_key (r : Regs) : (s.setRegs r).key = s.key := rfl
@[simp] theorem State.setRegs_redraw (r : Regs) : (s.setRegs r).redraw = s.redraw := rfl
@[simp] theorem State.setRegs_fault (r : Regs) : (s.setRegs r).fault = s.fault := rfl
@[simp] theorem State.setRegs_draws (r : Regs) : (s.setRegs r).draws = s.draws := rfl

/-! ## setI -/

@[simp] theorem State.setI_mem (a : Half) : (s.setI a).mem = s.mem := rfl
@[simp] theorem State.setI_v (a : Half) : (s.setI a).v = s.v := rfl
@[simp] theorem State.setI_i (a : Half) : (s.setI a).i = a := rfl
@[simp] theorem State.setI_pc (a : Half) : (s.setI a).pc = s.pc := rfl
@[simp] theorem State.setI_stack (a : Half) : (s.setI a).stack = s.stack := rfl
@[simp] theorem State.setI_sp (a : Half) : (s.setI a).sp = s.sp := rfl
@[simp] theorem State.setI_dt (a : Half) : (s.setI a).dt = s.dt := rfl
@[simp] theorem State.setI_st (a : Half) : (s.setI a).st = s.st := rfl
@[simp] theorem State.setI_disp (a : Half) : (s.setI a).disp = s.disp := rfl
@[simp] theorem State.setI_key (a : Half) : (s.setI a).key = s.key := rfl
@[simp] theorem State.setI_redraw (a : Half) : (s.setI a).redraw = s.redraw := rfl
@[simp] theorem State.setI_fault (a : Half) : (s.setI a).fault = s.fault := rfl
@[simp] theorem State.setI_draws (a : Half) : (s.setI a).draws = s.draws := rfl

/-! ## setPc -/

@[simp] theorem State.setPc_mem (a : Half) : (s.setPc a).mem = s.mem := rfl
@[simp] theorem State.setPc_v (a : Half) : (s.setPc a).v = s.v := rfl
@[simp] theorem State.setPc_i (a : Half) : (s.setPc a).i = s.i := rfl
@[simp] theorem State.setPc_pc (a : Half) : (s.setPc a).pc = a := rfl
@[simp] theorem State.setPc_stack (a : Half) : (s.setPc a).stack = s.stack := rfl
@[simp] theorem State.setPc_sp (a : Half) : (s.setPc a).sp = s.sp := rfl
@[simp] theorem State.setPc_dt (a : Half) : (s.setPc a).dt = s.dt := rfl
@[simp] theorem State.setPc_st (a : Half) : (s.setPc a).st = s.st := rfl
@[simp] theorem State.setPc_disp (a : Half) : (s.setPc a).disp = s.disp := rfl
@[simp] theorem State.setPc_key (a : Half) : (s.setPc a).key = s.key := rfl
@[simp] theorem State.setPc_redraw (a : Half) : (s.setPc a).redraw = s.redraw := rfl
@[simp] theorem State.setPc_fault (a : Half) : (s.setPc a).fault = s.fault := rfl
@[simp] theorem State.setPc_draws (a : Half) : (s.setPc a).draws = s.draws := rfl

/-! ## setStack -/

@[simp] theorem State.setStack_mem (k : Vector Half 16) : (s.setStack k).mem = s.mem := rfl
@[simp] theorem State.setStack_v (k : Vector Half 16) : (s.setStack k).v = s.v := rfl
@[simp] theorem State.setStack_i (k : Vector Half 16) : (s.setStack k).i = s.i := rfl
@[simp] theorem State.setStack_pc (k : Vector Half 16) : (s.setStack k).pc = s.pc := rfl
@[simp] theorem State.setStack_stack (k : Vector Half 16) : (s.setStack k).stack = k := rfl
@[simp] theorem State.setStack_sp (k : Vector Half 16) : (s.setStack k).sp = s.sp := rfl
@[simp] theorem State.setStack_dt (k : Vector Half 16) : (s.setStack k).dt = s.dt := rfl
@[simp] theorem State.setStack_st (k : Vector Half 16) : (s.setStack k).st = s.st := rfl
@[simp] theorem State.setStack_disp (k : Vector Half 16) : (s.setStack k).disp = s.disp := rfl
@[simp] theorem State.setStack_key (k : Vector Half 16) : (s.setStack k).key = s.key := rfl
@[simp] theorem State.setStack_redraw (k : Vector Half 16) : (s.setStack k).redraw = s.redraw := rfl
@[simp] theorem State.setStack_fault (k : Vector Half 16) : (s.setStack k).fault = s.fault := rfl
@[simp] theorem State.setStack_draws (k : Vector Half 16) : (s.setStack k).draws = s.draws := rfl

/-! ## setSp -/

@[simp] theorem State.setSp_mem (n : BitVec 5) : (s.setSp n).mem = s.mem := rfl
@[simp] theorem State.setSp_v (n : BitVec 5) : (s.setSp n).v = s.v := rfl
@[simp] theorem State.setSp_i (n : BitVec 5) : (s.setSp n).i = s.i := rfl
@[simp] theorem State.setSp_pc (n : BitVec 5) : (s.setSp n).pc = s.pc := rfl
@[simp] theorem State.setSp_stack (n : BitVec 5) : (s.setSp n).stack = s.stack := rfl
@[simp] theorem State.setSp_sp (n : BitVec 5) : (s.setSp n).sp = n := rfl
@[simp] theorem State.setSp_dt (n : BitVec 5) : (s.setSp n).dt = s.dt := rfl
@[simp] theorem State.setSp_st (n : BitVec 5) : (s.setSp n).st = s.st := rfl
@[simp] theorem State.setSp_disp (n : BitVec 5) : (s.setSp n).disp = s.disp := rfl
@[simp] theorem State.setSp_key (n : BitVec 5) : (s.setSp n).key = s.key := rfl
@[simp] theorem State.setSp_redraw (n : BitVec 5) : (s.setSp n).redraw = s.redraw := rfl
@[simp] theorem State.setSp_fault (n : BitVec 5) : (s.setSp n).fault = s.fault := rfl
@[simp] theorem State.setSp_draws (n : BitVec 5) : (s.setSp n).draws = s.draws := rfl

/-! ## setDt -/

@[simp] theorem State.setDt_mem (b : Byte) : (s.setDt b).mem = s.mem := rfl
@[simp] theorem State.setDt_v (b : Byte) : (s.setDt b).v = s.v := rfl
@[simp] theorem State.setDt_i (b : Byte) : (s.setDt b).i = s.i := rfl
@[simp] theorem State.setDt_pc (b : Byte) : (s.setDt b).pc = s.pc := rfl
@[simp] theorem State.setDt_stack (b : Byte) : (s.setDt b).stack = s.stack := rfl
@[simp] theorem State.setDt_sp (b : Byte) : (s.setDt b).sp = s.sp := rfl
@[simp] theorem State.setDt_dt (b : Byte) : (s.setDt b).dt = b := rfl
@[simp] theorem State.setDt_st (b : Byte) : (s.setDt b).st = s.st := rfl
@[simp] theorem State.setDt_disp (b : Byte) : (s.setDt b).disp = s.disp := rfl
@[simp] theorem State.setDt_key (b : Byte) : (s.setDt b).key = s.key := rfl
@[simp] theorem State.setDt_redraw (b : Byte) : (s.setDt b).redraw = s.redraw := rfl
@[simp] theorem State.setDt_fault (b : Byte) : (s.setDt b).fault = s.fault := rfl
@[simp] theorem State.setDt_draws (b : Byte) : (s.setDt b).draws = s.draws := rfl

/-! ## setSt -/

@[simp] theorem State.setSt_mem (b : Byte) : (s.setSt b).mem = s.mem := rfl
@[simp] theorem State.setSt_v (b : Byte) : (s.setSt b).v = s.v := rfl
@[simp] theorem State.setSt_i (b : Byte) : (s.setSt b).i = s.i := rfl
@[simp] theorem State.setSt_pc (b : Byte) : (s.setSt b).pc = s.pc := rfl
@[simp] theorem State.setSt_stack (b : Byte) : (s.setSt b).stack = s.stack := rfl
@[simp] theorem State.setSt_sp (b : Byte) : (s.setSt b).sp = s.sp := rfl
@[simp] theorem State.setSt_dt (b : Byte) : (s.setSt b).dt = s.dt := rfl
@[simp] theorem State.setSt_st (b : Byte) : (s.setSt b).st = b := rfl
@[simp] theorem State.setSt_disp (b : Byte) : (s.setSt b).disp = s.disp := rfl
@[simp] theorem State.setSt_key (b : Byte) : (s.setSt b).key = s.key := rfl
@[simp] theorem State.setSt_redraw (b : Byte) : (s.setSt b).redraw = s.redraw := rfl
@[simp] theorem State.setSt_fault (b : Byte) : (s.setSt b).fault = s.fault := rfl
@[simp] theorem State.setSt_draws (b : Byte) : (s.setSt b).draws = s.draws := rfl

/-! ## setDisp -/

@[simp] theorem State.setDisp_mem (d : Display) : (s.setDisp d).mem = s.mem := rfl
@[simp] theorem State.setDisp_v (d : Display) : (s.setDisp d).v = s.v := rfl
@[simp] theorem State.setDisp_i (d : Display) : (s.setDisp d).i = s.i := rfl
@[simp] theorem State.setDisp_pc (d : Display) : (s.setDisp d).pc = s.pc := rfl
@[simp] theorem State.setDisp_stack (d : Display) : (s.setDisp d).stack = s.stack := rfl
@[simp] theorem State.setDisp_sp (d : Display) : (s.setDisp d).sp = s.sp := rfl
@[simp] theorem State.setDisp_dt (d : Display) : (s.setDisp d).dt = s.dt := rfl
@[simp] theorem State.setDisp_st (d : Display) : (s.setDisp d).st = s.st := rfl
@[simp] theorem State.setDisp_disp (d : Display) : (s.setDisp d).disp = d := rfl
@[simp] theorem State.setDisp_key (d : Display) : (s.setDisp d).key = s.key := rfl
@[simp] theorem State.setDisp_redraw (d : Display) : (s.setDisp d).redraw = s.redraw := rfl
@[simp] theorem State.setDisp_fault (d : Display) : (s.setDisp d).fault = s.fault := rfl
@[simp] theorem State.setDisp_draws (d : Display) : (s.setDisp d).draws = s.draws := rfl

/-! ## setKey -/

@[simp] theorem State.setKey_mem (k : Vector Bool 16) : (s.setKey k).mem = s.mem := rfl
@[simp] theorem State.setKey_v (k : Vector Bool 16) : (s.setKey k).v = s.v := rfl
@[simp] theorem State.setKey_i (k : Vector Bool 16) : (s.setKey k).i = s.i := rfl
@[simp] theorem State.setKey_pc (k : Vector Bool 16) : (s.setKey k).pc = s.pc := rfl
@[simp] theorem State.setKey_stack (k : Vector Bool 16) : (s.setKey k).stack = s.stack := rfl
@[simp] theorem State.setKey_sp (k : Vector Bool 16) : (s.setKey k).sp = s.sp := rfl
@[simp] theorem State.setKey_dt (k : Vector Bool 16) : (s.setKey k).dt = s.dt := rfl
@[simp] theorem State.setKey_st (k : Vector Bool 16) : (s.setKey k).st = s.st := rfl
@[simp] theorem State.setKey_disp (k : Vector Bool 16) : (s.setKey k).disp = s.disp := rfl
@[simp] theorem State.setKey_key (k : Vector Bool 16) : (s.setKey k).key = k := rfl
@[simp] theorem State.setKey_redraw (k : Vector Bool 16) : (s.setKey k).redraw = s.redraw := rfl
@[simp] theorem State.setKey_fault (k : Vector Bool 16) : (s.setKey k).fault = s.fault := rfl
@[simp] theorem State.setKey_draws (k : Vector Bool 16) : (s.setKey k).draws = s.draws := rfl

/-! ## setRedraw -/

@[simp] theorem State.setRedraw_mem (b : Bool) : (s.setRedraw b).mem = s.mem := rfl
@[simp] theorem State.setRedraw_v (b : Bool) : (s.setRedraw b).v = s.v := rfl
@[simp] theorem State.setRedraw_i (b : Bool) : (s.setRedraw b).i = s.i := rfl
@[simp] theorem State.setRedraw_pc (b : Bool) : (s.setRedraw b).pc = s.pc := rfl
@[simp] theorem State.setRedraw_stack (b : Bool) : (s.setRedraw b).stack = s.stack := rfl
@[simp] theorem State.setRedraw_sp (b : Bool) : (s.setRedraw b).sp = s.sp := rfl
@[simp] theorem State.setRedraw_dt (b : Bool) : (s.setRedraw b).dt = s.dt := rfl
@[simp] theorem State.setRedraw_st (b : Bool) : (s.setRedraw b).st = s.st := rfl
@[simp] theorem State.setRedraw_disp (b : Bool) : (s.setRedraw b).disp = s.disp := rfl
@[simp] theorem State.setRedraw_key (b : Bool) : (s.setRedraw b).key = s.key := rfl
@[simp] theorem State.setRedraw_redraw (b : Bool) : (s.setRedraw b).redraw = b := rfl
@[simp] theorem State.setRedraw_fault (b : Bool) : (s.setRedraw b).fault = s.fault := rfl
@[simp] theorem State.setRedraw_draws (b : Bool) : (s.setRedraw b).draws = s.draws := rfl

/-! ## setFault -/

@[simp] theorem State.setFault_mem (c : BitVec 3) : (s.setFault c).mem = s.mem := rfl
@[simp] theorem State.setFault_v (c : BitVec 3) : (s.setFault c).v = s.v := rfl
@[simp] theorem State.setFault_i (c : BitVec 3) : (s.setFault c).i = s.i := rfl
@[simp] theorem State.setFault_pc (c : BitVec 3) : (s.setFault c).pc = s.pc := rfl
@[simp] theorem State.setFault_stack (c : BitVec 3) : (s.setFault c).stack = s.stack := rfl
@[simp] theorem State.setFault_sp (c : BitVec 3) : (s.setFault c).sp = s.sp := rfl
@[simp] theorem State.setFault_dt (c : BitVec 3) : (s.setFault c).dt = s.dt := rfl
@[simp] theorem State.setFault_st (c : BitVec 3) : (s.setFault c).st = s.st := rfl
@[simp] theorem State.setFault_disp (c : BitVec 3) : (s.setFault c).disp = s.disp := rfl
@[simp] theorem State.setFault_key (c : BitVec 3) : (s.setFault c).key = s.key := rfl
@[simp] theorem State.setFault_redraw (c : BitVec 3) : (s.setFault c).redraw = s.redraw := rfl
@[simp] theorem State.setFault_fault (c : BitVec 3) : (s.setFault c).fault = c := rfl
@[simp] theorem State.setFault_draws (c : BitVec 3) : (s.setFault c).draws = s.draws := rfl

/-! ## drawn -/

@[simp] theorem State.drawn_mem : (s.drawn).mem = s.mem := rfl
@[simp] theorem State.drawn_v : (s.drawn).v = s.v := rfl
@[simp] theorem State.drawn_i : (s.drawn).i = s.i := rfl
@[simp] theorem State.drawn_pc : (s.drawn).pc = s.pc := rfl
@[simp] theorem State.drawn_stack : (s.drawn).stack = s.stack := rfl
@[simp] theorem State.drawn_sp : (s.drawn).sp = s.sp := rfl
@[simp] theorem State.drawn_dt : (s.drawn).dt = s.dt := rfl
@[simp] theorem State.drawn_st : (s.drawn).st = s.st := rfl
@[simp] theorem State.drawn_disp : (s.drawn).disp = s.disp := rfl
@[simp] theorem State.drawn_key : (s.drawn).key = s.key := rfl
@[simp] theorem State.drawn_redraw : (s.drawn).redraw = s.redraw := rfl
@[simp] theorem State.drawn_fault : (s.drawn).fault = s.fault := rfl
@[simp] theorem State.drawn_draws : (s.drawn).draws = s.draws + 1 := rfl

/-! ## The compound updates -/

@[simp] theorem State.setReg_mem (x : RegIx) (b : Byte) : (s.setReg x b).mem = s.mem := rfl
@[simp] theorem State.setReg_v (x : RegIx) (b : Byte) :
    (s.setReg x b).v = s.v.set x.toNat b x.isLt := rfl
@[simp] theorem State.setReg_i (x : RegIx) (b : Byte) : (s.setReg x b).i = s.i := rfl
@[simp] theorem State.setReg_pc (x : RegIx) (b : Byte) : (s.setReg x b).pc = s.pc := rfl
@[simp] theorem State.setReg_stack (x : RegIx) (b : Byte) : (s.setReg x b).stack = s.stack := rfl
@[simp] theorem State.setReg_sp (x : RegIx) (b : Byte) : (s.setReg x b).sp = s.sp := rfl
@[simp] theorem State.setReg_dt (x : RegIx) (b : Byte) : (s.setReg x b).dt = s.dt := rfl
@[simp] theorem State.setReg_st (x : RegIx) (b : Byte) : (s.setReg x b).st = s.st := rfl
@[simp] theorem State.setReg_disp (x : RegIx) (b : Byte) : (s.setReg x b).disp = s.disp := rfl
@[simp] theorem State.setReg_key (x : RegIx) (b : Byte) : (s.setReg x b).key = s.key := rfl
@[simp] theorem State.setReg_redraw (x : RegIx) (b : Byte) : (s.setReg x b).redraw = s.redraw := rfl
@[simp] theorem State.setReg_fault (x : RegIx) (b : Byte) : (s.setReg x b).fault = s.fault := rfl
@[simp] theorem State.setReg_draws (x : RegIx) (b : Byte) : (s.setReg x b).draws = s.draws := rfl

@[simp] theorem State.setVF_mem (b : Byte) : (s.setVF b).mem = s.mem := rfl
@[simp] theorem State.setVF_v (b : Byte) : (s.setVF b).v = s.v.set 15 b := rfl
@[simp] theorem State.setVF_i (b : Byte) : (s.setVF b).i = s.i := rfl
@[simp] theorem State.setVF_pc (b : Byte) : (s.setVF b).pc = s.pc := rfl
@[simp] theorem State.setVF_stack (b : Byte) : (s.setVF b).stack = s.stack := rfl
@[simp] theorem State.setVF_sp (b : Byte) : (s.setVF b).sp = s.sp := rfl
@[simp] theorem State.setVF_dt (b : Byte) : (s.setVF b).dt = s.dt := rfl
@[simp] theorem State.setVF_st (b : Byte) : (s.setVF b).st = s.st := rfl
@[simp] theorem State.setVF_disp (b : Byte) : (s.setVF b).disp = s.disp := rfl
@[simp] theorem State.setVF_key (b : Byte) : (s.setVF b).key = s.key := rfl
@[simp] theorem State.setVF_redraw (b : Byte) : (s.setVF b).redraw = s.redraw := rfl
@[simp] theorem State.setVF_fault (b : Byte) : (s.setVF b).fault = s.fault := rfl
@[simp] theorem State.setVF_draws (b : Byte) : (s.setVF b).draws = s.draws := rfl

@[simp] theorem State.advance_mem : (s.advance).mem = s.mem := rfl
@[simp] theorem State.advance_v : (s.advance).v = s.v := rfl
@[simp] theorem State.advance_i : (s.advance).i = s.i := rfl
@[simp] theorem State.advance_pc : (s.advance).pc = s.pc + 2#16 := rfl
@[simp] theorem State.advance_stack : (s.advance).stack = s.stack := rfl
@[simp] theorem State.advance_sp : (s.advance).sp = s.sp := rfl
@[simp] theorem State.advance_dt : (s.advance).dt = s.dt := rfl
@[simp] theorem State.advance_st : (s.advance).st = s.st := rfl
@[simp] theorem State.advance_disp : (s.advance).disp = s.disp := rfl
@[simp] theorem State.advance_key : (s.advance).key = s.key := rfl
@[simp] theorem State.advance_redraw : (s.advance).redraw = s.redraw := rfl
@[simp] theorem State.advance_fault : (s.advance).fault = s.fault := rfl
@[simp] theorem State.advance_draws : (s.advance).draws = s.draws := rfl

@[simp] theorem State.skipIf_mem (c : Bool) : (s.skipIf c).mem = s.mem := rfl
@[simp] theorem State.skipIf_v (c : Bool) : (s.skipIf c).v = s.v := rfl
@[simp] theorem State.skipIf_i (c : Bool) : (s.skipIf c).i = s.i := rfl
@[simp] theorem State.skipIf_pc (c : Bool) :
    (s.skipIf c).pc = if c then s.pc + 4#16 else s.pc + 2#16 := rfl
@[simp] theorem State.skipIf_stack (c : Bool) : (s.skipIf c).stack = s.stack := rfl
@[simp] theorem State.skipIf_sp (c : Bool) : (s.skipIf c).sp = s.sp := rfl
@[simp] theorem State.skipIf_dt (c : Bool) : (s.skipIf c).dt = s.dt := rfl
@[simp] theorem State.skipIf_st (c : Bool) : (s.skipIf c).st = s.st := rfl
@[simp] theorem State.skipIf_disp (c : Bool) : (s.skipIf c).disp = s.disp := rfl
@[simp] theorem State.skipIf_key (c : Bool) : (s.skipIf c).key = s.key := rfl
@[simp] theorem State.skipIf_redraw (c : Bool) : (s.skipIf c).redraw = s.redraw := rfl
@[simp] theorem State.skipIf_fault (c : Bool) : (s.skipIf c).fault = s.fault := rfl
@[simp] theorem State.skipIf_draws (c : Bool) : (s.skipIf c).draws = s.draws := rfl

@[simp] theorem State.push_mem (a : Half) : (s.push a).mem = s.mem := rfl
@[simp] theorem State.push_v (a : Half) : (s.push a).v = s.v := rfl
@[simp] theorem State.push_i (a : Half) : (s.push a).i = s.i := rfl
@[simp] theorem State.push_pc (a : Half) : (s.push a).pc = s.pc := rfl
@[simp] theorem State.push_stack (a : Half) :
    (s.push a).stack = s.stack.setIfInBounds s.sp.toNat a := rfl
@[simp] theorem State.push_sp (a : Half) : (s.push a).sp = s.sp + 1#5 := rfl
@[simp] theorem State.push_dt (a : Half) : (s.push a).dt = s.dt := rfl
@[simp] theorem State.push_st (a : Half) : (s.push a).st = s.st := rfl
@[simp] theorem State.push_disp (a : Half) : (s.push a).disp = s.disp := rfl
@[simp] theorem State.push_key (a : Half) : (s.push a).key = s.key := rfl
@[simp] theorem State.push_redraw (a : Half) : (s.push a).redraw = s.redraw := rfl
@[simp] theorem State.push_fault (a : Half) : (s.push a).fault = s.fault := rfl
@[simp] theorem State.push_draws (a : Half) : (s.push a).draws = s.draws := rfl

@[simp] theorem State.pop_mem : (s.pop).mem = s.mem := rfl
@[simp] theorem State.pop_v : (s.pop).v = s.v := rfl
@[simp] theorem State.pop_i : (s.pop).i = s.i := rfl
@[simp] theorem State.pop_pc : (s.pop).pc = s.pc := rfl
@[simp] theorem State.pop_stack : (s.pop).stack = s.stack := rfl
@[simp] theorem State.pop_sp : (s.pop).sp = s.sp - 1#5 := rfl
@[simp] theorem State.pop_dt : (s.pop).dt = s.dt := rfl
@[simp] theorem State.pop_st : (s.pop).st = s.st := rfl
@[simp] theorem State.pop_disp : (s.pop).disp = s.disp := rfl
@[simp] theorem State.pop_key : (s.pop).key = s.key := rfl
@[simp] theorem State.pop_redraw : (s.pop).redraw = s.redraw := rfl
@[simp] theorem State.pop_fault : (s.pop).fault = s.fault := rfl
@[simp] theorem State.pop_draws : (s.pop).draws = s.draws := rfl

@[simp] theorem State.raise_mem (c : Cause) : (s.raise c).mem = s.mem := rfl
@[simp] theorem State.raise_v (c : Cause) : (s.raise c).v = s.v := rfl
@[simp] theorem State.raise_i (c : Cause) : (s.raise c).i = s.i := rfl
@[simp] theorem State.raise_pc (c : Cause) : (s.raise c).pc = s.pc := rfl
@[simp] theorem State.raise_stack (c : Cause) : (s.raise c).stack = s.stack := rfl
@[simp] theorem State.raise_sp (c : Cause) : (s.raise c).sp = s.sp := rfl
@[simp] theorem State.raise_dt (c : Cause) : (s.raise c).dt = s.dt := rfl
@[simp] theorem State.raise_st (c : Cause) : (s.raise c).st = s.st := rfl
@[simp] theorem State.raise_disp (c : Cause) : (s.raise c).disp = s.disp := rfl
@[simp] theorem State.raise_key (c : Cause) : (s.raise c).key = s.key := rfl
@[simp] theorem State.raise_redraw (c : Cause) : (s.raise c).redraw = s.redraw := rfl
@[simp] theorem State.raise_fault (c : Cause) : (s.raise c).fault = c.code := rfl
@[simp] theorem State.raise_draws (c : Cause) : (s.raise c).draws = s.draws := rfl

@[simp] theorem State.storeAtI_mem (bs : List Byte) :
    (s.storeAtI bs).mem = Memory.store s.mem s.i.toNat bs := rfl
@[simp] theorem State.storeAtI_v (bs : List Byte) : (s.storeAtI bs).v = s.v := rfl
@[simp] theorem State.storeAtI_i (bs : List Byte) : (s.storeAtI bs).i = s.i := rfl
@[simp] theorem State.storeAtI_pc (bs : List Byte) : (s.storeAtI bs).pc = s.pc := rfl
@[simp] theorem State.storeAtI_stack (bs : List Byte) : (s.storeAtI bs).stack = s.stack := rfl
@[simp] theorem State.storeAtI_sp (bs : List Byte) : (s.storeAtI bs).sp = s.sp := rfl
@[simp] theorem State.storeAtI_dt (bs : List Byte) : (s.storeAtI bs).dt = s.dt := rfl
@[simp] theorem State.storeAtI_st (bs : List Byte) : (s.storeAtI bs).st = s.st := rfl
@[simp] theorem State.storeAtI_disp (bs : List Byte) : (s.storeAtI bs).disp = s.disp := rfl
@[simp] theorem State.storeAtI_key (bs : List Byte) : (s.storeAtI bs).key = s.key := rfl
@[simp] theorem State.storeAtI_redraw (bs : List Byte) : (s.storeAtI bs).redraw = s.redraw := rfl
@[simp] theorem State.storeAtI_fault (bs : List Byte) : (s.storeAtI bs).fault = s.fault := rfl
@[simp] theorem State.storeAtI_draws (bs : List Byte) : (s.storeAtI bs).draws = s.draws := rfl

/-! ## A register after each update -/

/-- A register after a register write. -/
@[simp] theorem State.reg_setReg (x k : RegIx) (b : Byte) :
    (s.setReg x b).reg k = if k = x then b else s.reg k := by
  simp only [State.reg, State.setReg_v, Vector.getElem_set]
  by_cases h : k = x
  · simp [h]
  · have : x.toNat ≠ k.toNat := fun e => h (BitVec.eq_of_toNat_eq e.symm)
    simp [h, this]

/-- A register after the flag is written. -/
@[simp] theorem State.reg_setVF (k : RegIx) (b : Byte) :
    (s.setVF b).reg k = if k = 0xF#4 then b else s.reg k :=
  State.reg_setReg s 0xF#4 k b

@[simp] theorem State.reg_setMem (m : List Host.Cell) (k : RegIx) :
    (s.setMem m).reg k = s.reg k := rfl
@[simp] theorem State.reg_setI (a : Half) (k : RegIx) : (s.setI a).reg k = s.reg k := rfl
@[simp] theorem State.reg_setPc (a : Half) (k : RegIx) : (s.setPc a).reg k = s.reg k := rfl
@[simp] theorem State.reg_setStack (k : Vector Half 16) (j : RegIx) :
    (s.setStack k).reg j = s.reg j := rfl
@[simp] theorem State.reg_setSp (n : BitVec 5) (k : RegIx) : (s.setSp n).reg k = s.reg k := rfl
@[simp] theorem State.reg_setDt (b : Byte) (k : RegIx) : (s.setDt b).reg k = s.reg k := rfl
@[simp] theorem State.reg_setSt (b : Byte) (k : RegIx) : (s.setSt b).reg k = s.reg k := rfl
@[simp] theorem State.reg_setDisp (d : Display) (k : RegIx) : (s.setDisp d).reg k = s.reg k := rfl
@[simp] theorem State.reg_setKey (k : Vector Bool 16) (j : RegIx) :
    (s.setKey k).reg j = s.reg j := rfl
@[simp] theorem State.reg_setRedraw (b : Bool) (k : RegIx) : (s.setRedraw b).reg k = s.reg k := rfl
@[simp] theorem State.reg_setFault (c : BitVec 3) (k : RegIx) :
    (s.setFault c).reg k = s.reg k := rfl
@[simp] theorem State.reg_drawn (k : RegIx) : (s.drawn).reg k = s.reg k := rfl
@[simp] theorem State.reg_advance (k : RegIx) : (s.advance).reg k = s.reg k := rfl
@[simp] theorem State.reg_skipIf (c : Bool) (k : RegIx) : (s.skipIf c).reg k = s.reg k := rfl
@[simp] theorem State.reg_push (a : Half) (k : RegIx) : (s.push a).reg k = s.reg k := rfl
@[simp] theorem State.reg_pop (k : RegIx) : (s.pop).reg k = s.reg k := rfl
@[simp] theorem State.reg_raise (c : Cause) (k : RegIx) : (s.raise c).reg k = s.reg k := rfl
@[simp] theorem State.reg_storeAtI (bs : List Byte) (k : RegIx) :
    (s.storeAtI bs).reg k = s.reg k := rfl

end Sys2Proof.Machine
end

