-- ==== Sys2Proof/Laws/Ops.lean ====
section
/-!
SUPPORT. What each shared operation can do, said once: checks, faults, registers, stack, display
cells, keys, fetch.
-/
namespace Sys2Proof.Machine

variable (s t : State)

/-! ## Checks and faults -/

/-- A guarded step takes the fault of its check, or goes on. -/
theorem State.guarded_eq_next (c : Option Raise) (u : State) :
    s.guarded c u = .next t ↔
      (∃ r, c = some r ∧ t = s.raise r.cause) ∨ (c = none ∧ t = u) := by
  cases c <;> simp [State.guarded, eq_comm]

@[simp] theorem State.guarded_none (u : State) : s.guarded none u = .next u := rfl

@[simp] theorem State.guarded_some (r : Raise) (u : State) :
    s.guarded (some r) u = .next (s.raise r.cause) := rfl

/-- Past the stack pointer test an outcome is the inner one. -/
theorem State.withLegalSp_eq_next (o : Host.Outcome State Fault Refusal) :
    s.withLegalSp o = .next t ↔ s.sp.toNat ≤ 16 ∧ o = .next t := by
  unfold State.withLegalSp
  split <;> simp_all

theorem State.callCheck_eq_some (r : Raise) :
    s.callCheck = some r ↔ s.sp.toNat = 16 ∧ r = ⟨.stackOverflow, s.pc.toNat⟩ := by
  simp [State.callCheck, eq_comm]

theorem State.callCheck_eq_none : s.callCheck = none ↔ s.sp.toNat ≠ 16 := by
  simp [State.callCheck]

theorem State.retCheck_eq_some (r : Raise) :
    s.retCheck = some r ↔ s.sp.toNat = 0 ∧ r = ⟨.stackUnderflow, s.pc.toNat⟩ := by
  simp [State.retCheck, eq_comm]

theorem State.retCheck_eq_none : s.retCheck = none ↔ s.sp.toNat ≠ 0 := by
  simp [State.retCheck]

theorem State.readCheck_eq_some (n : Nat) (r : Raise) :
    s.readCheck n = some r ↔
      (1 ≤ n ∧ s.i.toNat + n - 1 > 0xFFF) ∧ r = ⟨.memRange, s.i.toNat + n - 1⟩ := by
  simp [State.readCheck, eq_comm]

theorem State.readCheck_eq_none (n : Nat) :
    s.readCheck n = none ↔ n = 0 ∨ s.i.toNat + n ≤ 0x1000 := by
  simp only [State.readCheck, ite_eq_right_iff, reduceCtorEq, imp_false]
  omega

theorem State.writeCheck_eq_some (n : Nat) (r : Raise) :
    s.writeCheck n = some r ↔
      (s.i.toNat ≤ 0x04F ∧ r = ⟨.fontWrite, s.i.toNat⟩) ∨
      (0x04F < s.i.toNat ∧ s.readCheck n = some r) := by
  unfold State.writeCheck
  split
  · rename_i h
    simp [eq_comm, h, Nat.not_lt.2 h]
  · rename_i h
    simp [h, Nat.not_le.1 h]

theorem State.writeCheck_eq_none (n : Nat) :
    s.writeCheck n = none ↔ 0x04F < s.i.toNat ∧ (n = 0 ∨ s.i.toNat + n ≤ 0x1000) := by
  unfold State.writeCheck
  split
  · rename_i h
    simp [Nat.not_lt.2 h]
  · rename_i h
    simp [State.readCheck_eq_none, Nat.not_le.1 h]

theorem State.keyCheck_eq_some (x : RegIx) (r : Raise) :
    s.keyCheck x = some r ↔
      (s.reg x).toNat > 0x0F ∧ r = ⟨.keyRange, (s.reg x).toNat⟩ := by
  simp [State.keyCheck, eq_comm]

theorem State.keyCheck_eq_none (x : RegIx) : s.keyCheck x = none ↔ (s.reg x).toNat ≤ 0x0F := by
  simp [State.keyCheck]

/-- Every cause has a code of its own, none of them 0 (R211). -/
theorem Cause.code_ne_zero (c : Cause) : c.code ≠ 0#3 := by
  cases c <;> decide

theorem Cause.code_injective (c d : Cause) (h : c.code = d.code) : c = d := by
  cases c <;> cases d <;> first | rfl | exact absurd h (by decide)

/-! ## Registers -/

/-- The register file after a fill: the filled registers, the others as before. -/
theorem Regs.getElem_fill (v : Regs) (k : Nat) (bs : List Byte) (j : Nat) (hj : j < 16) :
    (Regs.fill v k bs)[j] = if k ≤ j ∧ j < k + bs.length then bs.getD (j - k) 0 else v[j] := by
  induction bs generalizing v k with
  | nil =>
    have : ¬ (k ≤ j ∧ j < k) := by omega
    simp [Regs.fill, this]
  | cons b bs ih =>
    rw [Regs.fill, ih, List.length_cons]
    by_cases h1 : j = k
    · subst h1
      simp
    · have h1' : ¬ k = j := fun h => h1 h.symm
      by_cases h2 : k + 1 ≤ j ∧ j < k + 1 + bs.length
      · have e : j - k = (j - (k + 1)) + 1 := by omega
        rw [if_pos h2, if_pos (by omega), e, List.getD_cons_succ]
      · rw [if_neg h2, if_neg (by omega)]
        simp [h1']

/-- How many bytes FX55 stores. -/
@[simp] theorem State.length_firstRegs (x : RegIx) : (s.firstRegs x).length = x.toNat + 1 := by
  have := x.isLt
  simp [State.firstRegs, regCount]
  omega

/-- The bytes FX55 stores. -/
theorem State.getD_firstRegs (x k : RegIx) (h : k.toNat ≤ x.toNat) (d : Byte) :
    (s.firstRegs x).getD k.toNat d = s.reg k := by
  have := k.isLt
  have h2 : k.toNat < x.toNat + 1 := by omega
  simp [State.firstRegs, regCount, State.reg, List.getD_eq_getElem?_getD, h2,
    Vector.getElem?_eq_getElem this]

/-! ## The call stack -/

/-- The entry a push writes. -/
theorem State.push_stack_getElem (a : Half) (k : Nat) (hk : k < 16) :
    (s.push a).stack[k] = if k = s.sp.toNat then a else s.stack[k] := by
  simp only [State.push_stack, Vector.getElem_setIfInBounds]
  by_cases h : k = s.sp.toNat
  · simp [h]
  · simp [h, Ne.symm h]

/-- The entry a return reads. -/
theorem State.top_eq (k : Nat) (hk : k < 16) (h : s.sp.toNat = k + 1) : s.top = s.stack[k] := by
  simp [State.top, h, hk]

/-! ## The display -/

/-- A cell after a cell is set: its own, or as before. -/
@[simp] theorem Display.cell_setCell (d : Display) (r c r' c' : Nat) (b : Bool) :
    Display.cell (Display.setCell d r c b) r' c' =
      if r' % 32 = r % 32 ∧ c' % 64 = c % 64 then b else Display.cell d r' c' := by
  simp only [Display.cell, Display.setCell, Vector.getElem_set]
  by_cases hr : r % 32 = r' % 32
  · by_cases hc : c % 64 = c' % 64
    · simp [hr, hc]
    · simp [hr, hc, Ne.symm hc]
  · simp [hr, Ne.symm hr]

@[simp] theorem Display.cell_blank (r c : Nat) : Display.cell Display.blank r c = false := by
  simp [Display.cell, Display.blank]

/-- Two displays with the same cells are the same. -/
theorem Display.ext_cells (d e : Display)
    (h : ∀ r c, r < 32 → c < 64 → Display.cell d r c = Display.cell e r c) : d = e := by
  apply Vector.ext
  intro r hr
  apply Vector.ext
  intro c hc
  have := h r c hr hc
  simpa [Display.cell, Nat.mod_eq_of_lt hr, Nat.mod_eq_of_lt hc] using this

/-! ## Keys -/

theorem State.keyDown_eq (k : Nat) (h : k < 16) : s.keyDown k = s.key[k] := by
  simp [State.keyDown, h]

/-- The pressed keys. -/
theorem State.mem_pressed (k : Nat) : k ∈ s.pressed ↔ k < 16 ∧ s.keyDown k = true := by
  simp [State.pressed]

/-- The key drawn is one of the pressed keys (R194). -/
theorem State.drawKey_mem (k : Nat) (ks : List Nat) : s.drawKey k ks ∈ k :: ks := by
  have h : Config.keysel s.draws % (ks.length + 1) < (k :: ks).length := by
    simpa using Nat.mod_lt _ (Nat.succ_pos _)
  simp only [State.drawKey, List.getElem?_eq_getElem h, Option.getD_some]
  exact List.getElem_mem h

/-! ## The fetch -/

theorem State.fetch_eq_some (w : Half) :
    s.fetch = some w ↔ s.pc.toNat ≤ 0xFFE ∧ w = s.wordAtPc := by
  simp [State.fetch, eq_comm]

theorem State.fetch_eq_none : s.fetch = none ↔ 0xFFE < s.pc.toNat := by
  simp [State.fetch]

theorem State.toNat_wordAtPc : s.wordAtPc.toNat =
    (Memory.read s.mem s.pc.toNat).toNat * 256 + (Memory.read s.mem (s.pc.toNat + 1)).toNat :=
  toNat_wordOf _ _

/-- What one step does, all its cases (R237). -/
theorem step_cases (h : step s = .next t) :
    (s.fault ≠ 0#3 ∧ t = s) ∨
    (s.fault = 0#3 ∧ 0xFFE < s.pc.toNat ∧ t = s.raise .fetchRange) ∨
    (s.fault = 0#3 ∧ s.pc.toNat ≤ 0xFFE ∧ decode s.wordAtPc = none ∧ t = s.advance) ∨
    (s.fault = 0#3 ∧ s.pc.toNat ≤ 0xFFE ∧ ∃ i, decode s.wordAtPc = some i ∧ exec i s = .next t) := by
  unfold step at h
  by_cases hf : s.fault = 0#3
  · rw [if_neg (by simp [hf])] at h
    by_cases hp : s.pc.toNat ≤ 0xFFE
    · rw [(s.fetch_eq_some _).2 ⟨hp, rfl⟩] at h
      simp only at h
      cases hd : decode s.wordAtPc with
      | none =>
        rw [hd] at h
        exact .inr (.inr (.inl ⟨hf, hp, rfl, by simpa [State.skipUnrecognized, eq_comm] using h⟩))
      | some i =>
        rw [hd] at h
        exact .inr (.inr (.inr ⟨hf, hp, i, rfl, h⟩))
    · rw [(s.fetch_eq_none).2 (by omega)] at h
      exact .inr (.inl ⟨hf, by omega, by simpa [State.fetchFault, eq_comm] using h⟩)
  · rw [if_pos hf] at h
    exact .inl ⟨hf, by simpa [State.latched, eq_comm] using h⟩

end Sys2Proof.Machine
end

