-- ==== Sys2Proof/Laws/Draw.lean ====
section
/-!
SUPPORT. The scan of DXYN cell by cell (R182, R183): what each loop leaves in a cell, and when it
reports a collision or a change.
-/
namespace Sys2Proof.Machine

/-- A cell is named by its coordinates modulo 32 and 64. -/
theorem Display.cell_congr (d : Display) {r c r' c' : Nat} (hr : r % 32 = r' % 32)
    (hc : c % 64 = c' % 64) : Display.cell d r c = Display.cell d r' c' := by
  simp [Display.cell, hr, hc]

/-- The first `n` columns of a sprite row. -/
def Scan.cols (a : Scan) (x0 row : Nat) (b : Byte) (n : Nat) : Scan :=
  (List.range n).foldl (fun a c => a.plot row (x0 + c) (b.getLsbD (7 - c))) a

theorem Scan.cols_succ (a : Scan) (x0 row : Nat) (b : Byte) (n : Nat) :
    a.cols x0 row b (n + 1) = (a.cols x0 row b n).plot row (x0 + n) (b.getLsbD (7 - n)) := by
  simp [Scan.cols, List.range_succ]

theorem Scan.row_eq_cols (a : Scan) (x0 row : Nat) (b : Byte) :
    a.row x0 row b = a.cols x0 row b 8 := rfl

/-- The column offset of a cell from the sprite's first column. -/
def colOff (x0 c : Nat) : Nat := (c + 64 - x0 % 64) % 64

/-- The row offset of a cell from the sprite's first row. -/
def rowOff (y0 r : Nat) : Nat := (r + 32 - y0 % 32) % 32

/-- A cell after the first `n` columns of a row. -/
theorem Scan.cell_cols (a : Scan) (x0 row : Nat) (b : Byte) (n : Nat) (hn : n ≤ 8) (r c : Nat) :
    Display.cell (a.cols x0 row b n).disp r c =
      if r % 32 = row % 32 ∧ colOff x0 c < n then
        (Display.cell a.disp r c ^^ b.getLsbD (7 - colOff x0 c))
      else Display.cell a.disp r c := by
  induction n with
  | zero => simp [Scan.cols]
  | succ n ih =>
    have ih := ih (by omega)
    rw [Scan.cols_succ]
    simp only [Scan.plot, Display.cell_setCell]
    by_cases h : r % 32 = row % 32 ∧ c % 64 = (x0 + n) % 64
    · have hk : colOff x0 c = n := by unfold colOff; omega
      rw [if_pos h, Display.cell_congr _ h.1.symm h.2.symm, ih, hk, if_neg (by omega),
        if_pos ⟨h.1, by omega⟩]
    · rw [if_neg h, ih]
      by_cases hr : r % 32 = row % 32
      · have hk : colOff x0 c ≠ n := by
          intro e
          apply h
          unfold colOff at e
          omega
        by_cases hl : colOff x0 c < n
        · rw [if_pos ⟨hr, hl⟩, if_pos ⟨hr, by omega⟩]
        · rw [if_neg (by omega), if_neg (by omega)]
      · rw [if_neg (by tauto), if_neg (by tauto)]

/-- When the first `n` columns of a row report a collision. -/
theorem Scan.collision_cols (a : Scan) (x0 row : Nat) (b : Byte) (n : Nat) (hn : n ≤ 8) :
    (a.cols x0 row b n).collision = true ↔
      a.collision = true ∨
        ∃ k, k < n ∧ Display.cell a.disp row (x0 + k) = true ∧ b.getLsbD (7 - k) = true := by
  induction n with
  | zero => simp [Scan.cols]
  | succ n ih =>
    rw [Scan.cols_succ]
    simp only [Scan.plot, Bool.or_eq_true, Bool.and_eq_true, ih (by omega)]
    rw [Scan.cell_cols a x0 row b n (by omega), if_neg (by unfold colOff; omega)]
    constructor
    · rintro ((h | ⟨k, hk, h⟩) | h)
      · exact .inl h
      · exact .inr ⟨k, by omega, h⟩
      · exact .inr ⟨n, by omega, h⟩
    · rintro (h | ⟨k, hk, h⟩)
      · exact .inl (.inl h)
      · by_cases e : k = n
        · exact .inr (e ▸ h)
        · exact .inl (.inr ⟨k, by omega, h⟩)

/-- When the first `n` columns of a row report a change. -/
theorem Scan.changed_cols (a : Scan) (x0 row : Nat) (b : Byte) (n : Nat) :
    (a.cols x0 row b n).changed = true ↔
      a.changed = true ∨ ∃ k, k < n ∧ b.getLsbD (7 - k) = true := by
  induction n with
  | zero => simp [Scan.cols]
  | succ n ih =>
    rw [Scan.cols_succ]
    simp only [Scan.plot, Bool.or_eq_true, ih]
    constructor
    · rintro ((h | ⟨k, hk, h⟩) | h)
      · exact .inl h
      · exact .inr ⟨k, by omega, h⟩
      · exact .inr ⟨n, by omega, h⟩
    · rintro (h | ⟨k, hk, h⟩)
      · exact .inl (.inl h)
      · by_cases e : k = n
        · exact .inr (e ▸ h)
        · exact .inl (.inr ⟨k, by omega, h⟩)

/-- A cell after a whole sprite of at most 32 rows: exclusive-or with the sprite bit on it. -/
theorem Scan.cell_sprite (x0 row : Nat) (bs : List Byte) (a : Scan) (hb : bs.length ≤ 32)
    (r c : Nat) :
    Display.cell (Scan.sprite x0 row bs a).disp r c =
      if rowOff row r < bs.length ∧ colOff x0 c < 8 then
        (Display.cell a.disp r c ^^ (bs.getD (rowOff row r) 0).getLsbD (7 - colOff x0 c))
      else Display.cell a.disp r c := by
  induction bs generalizing row a with
  | nil => simp [Scan.sprite]
  | cons b bs ih =>
    rw [List.length_cons] at hb
    rw [Scan.sprite, ih _ _ (by omega), Scan.row_eq_cols, Scan.cell_cols _ _ _ _ _ (le_refl 8),
      List.length_cons]
    by_cases hr : r % 32 = row % 32
    · have h0 : rowOff row r = 0 := by unfold rowOff; omega
      have h1 : ¬ rowOff (row + 1) r < bs.length := by unfold rowOff; omega
      simp [h0, h1, hr]
    · have h0 : rowOff row r = rowOff (row + 1) r + 1 := by unfold rowOff; omega
      simp [h0, hr]

/-- When a sprite of at most 32 rows reports a collision. -/
theorem Scan.collision_sprite (x0 row : Nat) (bs : List Byte) (a : Scan) (hb : bs.length ≤ 32) :
    (Scan.sprite x0 row bs a).collision = true ↔
      a.collision = true ∨ ∃ j k, j < bs.length ∧ k < 8 ∧
        Display.cell a.disp (row + j) (x0 + k) = true ∧
        (bs.getD j 0).getLsbD (7 - k) = true := by
  induction bs generalizing row a with
  | nil => simp [Scan.sprite]
  | cons b bs ih =>
    rw [List.length_cons] at hb
    rw [Scan.sprite, ih _ _ (by omega), Scan.row_eq_cols, Scan.collision_cols _ _ _ _ _ (le_refl 8),
      List.length_cons]
    have key : ∀ j k, j < bs.length →
        Display.cell (a.cols x0 row b 8).disp (row + 1 + j) (x0 + k) =
          Display.cell a.disp (row + (j + 1)) (x0 + k) := by
      intro j k hj
      rw [Scan.cell_cols _ _ _ _ _ (le_refl 8), if_neg (by omega), Nat.add_assoc, Nat.add_comm 1 j]
    constructor
    · rintro ((h | ⟨k, hk, h⟩) | ⟨j, k, hj, hk, h⟩)
      · exact .inl h
      · exact .inr ⟨0, k, by omega, hk, by simpa using h⟩
      · exact .inr ⟨j + 1, k, by omega, hk, by simpa [key j k hj] using h⟩
    · rintro (h | ⟨j, k, hj, hk, h⟩)
      · exact .inl (.inl h)
      · cases j with
        | zero => exact .inl (.inr ⟨k, hk, by simpa using h⟩)
        | succ j =>
          have hj' : j < bs.length := by omega
          exact .inr ⟨j, k, hj', hk, by simpa [key j k hj'] using h⟩

/-- When a sprite reports a change. -/
theorem Scan.changed_sprite (x0 row : Nat) (bs : List Byte) (a : Scan) :
    (Scan.sprite x0 row bs a).changed = true ↔
      a.changed = true ∨ ∃ j k, j < bs.length ∧ k < 8 ∧ (bs.getD j 0).getLsbD (7 - k) = true := by
  induction bs generalizing row a with
  | nil => simp [Scan.sprite]
  | cons b bs ih =>
    rw [Scan.sprite, ih, Scan.row_eq_cols, Scan.changed_cols, List.length_cons]
    constructor
    · rintro ((h | ⟨k, hk, h⟩) | ⟨j, k, hj, hk, h⟩)
      · exact .inl h
      · exact .inr ⟨0, k, by omega, hk, by simpa using h⟩
      · exact .inr ⟨j + 1, k, by omega, hk, by simpa using h⟩
    · rintro (h | ⟨j, k, hj, hk, h⟩)
      · exact .inl (.inl h)
      · cases j with
        | zero => exact .inl (.inr ⟨k, hk, by simpa using h⟩)
        | succ j => exact .inr ⟨j, k, by omega, hk, by simpa using h⟩

/-! ## The writes of DXYN, field by field -/

variable (s : State) (a : Scan)

@[simp] theorem State.drawScan_mem : (s.drawScan a).mem = s.mem := rfl
@[simp] theorem State.drawScan_i : (s.drawScan a).i = s.i := rfl
@[simp] theorem State.drawScan_pc : (s.drawScan a).pc = s.pc := rfl
@[simp] theorem State.drawScan_stack : (s.drawScan a).stack = s.stack := rfl
@[simp] theorem State.drawScan_sp : (s.drawScan a).sp = s.sp := rfl
@[simp] theorem State.drawScan_dt : (s.drawScan a).dt = s.dt := rfl
@[simp] theorem State.drawScan_st : (s.drawScan a).st = s.st := rfl
@[simp] theorem State.drawScan_key : (s.drawScan a).key = s.key := rfl
@[simp] theorem State.drawScan_fault : (s.drawScan a).fault = s.fault := rfl
@[simp] theorem State.drawScan_draws : (s.drawScan a).draws = s.draws := rfl
@[simp] theorem State.drawScan_disp : (s.drawScan a).disp = a.disp := rfl
@[simp] theorem State.drawScan_redraw :
    (s.drawScan a).redraw = (s.redraw || a.changed) := rfl
@[simp] theorem State.drawScan_reg (k : RegIx) :
    (s.drawScan a).reg k = if k = 0xF#4 then collisionFlag a.collision else s.reg k := by
  unfold State.drawScan
  simp

/-! ## The scan of a whole DXYN -/

variable (x y : RegIx) (n : Nibble)

/-- The sprite byte of row `j`. -/
theorem State.getD_loadAtI (n j : Nat) (h : j < n) :
    (s.loadAtI n).getD j 0 = Memory.read s.mem (s.i.toNat + j) := by
  simp [State.loadAtI, List.getD_eq_getElem?_getD, Memory.getElem?_load _ _ _ _ h]

@[simp] theorem State.length_loadAtI (n : Nat) : (s.loadAtI n).length = n := by
  simp [State.loadAtI]

/-- Where a cell lies in the sprite, by its offsets from the sprite's corner. -/
theorem offsets_iff (x0 y0 n : Nat) (r : Fin 32) (c : Fin 64) (j k : Nat) (hn : n ≤ 32)
    (hj : j < n) (hk : k < 8) :
    (r.val = (y0 + j) % 32 ∧ c.val = (x0 + k) % 64) ↔ j = rowOff y0 r ∧ k = colOff x0 c := by
  have := r.isLt
  have := c.isLt
  unfold rowOff colOff
  omega

/-- A cell after DXYN: flipped where the sprite has a 1 bit on it. -/
theorem State.cell_scan (r : Fin 32) (c : Fin 64) :
    Display.cell (s.scan x y n).disp r c =
      if rowOff (s.reg y).toNat r < n.toNat ∧ colOff (s.reg x).toNat c < 8 then
        (Display.cell s.disp r c ^^
          (Memory.read s.mem (s.i.toNat + rowOff (s.reg y).toNat r)).getLsbD
            (7 - colOff (s.reg x).toNat c))
      else Display.cell s.disp r c := by
  have := n.isLt
  rw [State.scan, Scan.cell_sprite _ _ _ _ (by simp; omega), State.length_loadAtI]
  split
  · rename_i h
    rw [State.getD_loadAtI _ _ _ h.1]
  · rfl

end Sys2Proof.Machine
end

