-- ==== Sys2Proof/Tests/Slice0.lean ====
section
/-!
SUPPORT. Tests of the model's own: the ill-formed terms that WellFormed refuses, words written out
from R94, one step of each instruction on the vectors of `95_test_vectors.md`, and a witness for the
hypotheses of every statement that has some.
-/
namespace Sys2Proof.Tests

open Sys2Proof.Machine Sys2Proof.Safety

/-! ## Helpers -/

/-- The outcome is a next state with the property. -/
def nextIs (o : Host.Outcome State Fault Refusal) (p : State → Bool) : Bool :=
  match o with
  | .next t => p t
  | .fault _ => false
  | .refused _ => false

/-- One step on the word `w`, from the state `s`. -/
def run (s : State) (w : Nat) : Host.Outcome State Fault Refusal := step (s.withFetchWord 16 w)

/-- The state right after reset. -/
def s0 : State := State.reset

/-- Reset, `V1` = `a`, `V2` = `b`. -/
def regs12 (a b : Byte) : State := (s0.setReg 1 a).setReg 2 b

/-- Reset, with the bytes `bs` at 0x300 and `I` = 0x300. -/
def atI (bs : List Byte) : State := (s0.setI 0x300).setMem (Memory.store [] 0x300 bs)

/-- Reset, with key `k` pressed. -/
def keyed (k : Fin 16) : State := s0.keyWrite k true

/-! ## WellFormed: an ill-formed term for each check (R97, R98) -/

theorem test_wf_register : AsmLine.wellFormed ⟨.skp, [.reg 16]⟩ = false := by decide
theorem test_wf_v0 : AsmLine.wellFormed ⟨.jp, [.reg 1, .num 0x300]⟩ = false := by decide
theorem test_wf_imm4 : AsmLine.wellFormed ⟨.drw, [.reg 1, .reg 2, .num 16]⟩ = false := by decide
theorem test_wf_imm8 : AsmLine.wellFormed ⟨.ld, [.reg 1, .num 256]⟩ = false := by decide
theorem test_wf_imm12 : AsmLine.wellFormed ⟨.ld, [.idx, .num 4096]⟩ = false := by decide
theorem test_wf_shape : AsmLine.wellFormed ⟨.or, [.reg 1, .num 1]⟩ = false := by decide
theorem test_wf_count : AsmLine.wellFormed ⟨.cls, [.reg 1]⟩ = false := by decide
theorem test_wf_db : AsmItem.wellFormed (.db [0, 256]) = false := by decide
theorem test_wf_dw : AsmItem.wellFormed (.dw 65536) = false := by decide
theorem test_wf_accepts : AsmLine.wellFormed ⟨.ld, [.reg 2, .atIdx]⟩ = true := by decide

/-! ## Decode and encode: a word of every constructor, from the patterns of R94 -/

theorem test_decode_control :
    decode 0x00EE#16 = some .ret ∧ decode 0x1ABC#16 = some (.jp 0xABC) ∧
    decode 0x220E#16 = some (.call 0x20E) ∧ decode 0x332A#16 = some (.seI 3 0x2A) ∧
    decode 0x432A#16 = some (.sneI 3 0x2A) ∧ decode 0x5120#16 = some (.seR 1 2) ∧
    decode 0x9120#16 = some (.sneR 1 2) ∧ decode 0xB300#16 = some (.jpV0 0x300) := by decide

theorem test_decode_alu :
    decode 0x6A12#16 = some (.ldI 0xA 0x12) ∧ decode 0x7103#16 = some (.addI 1 3) ∧
    decode 0x8120#16 = some (.ldR 1 2) ∧ decode 0x8121#16 = some (.orR 1 2) ∧
    decode 0x8122#16 = some (.andR 1 2) ∧ decode 0x8123#16 = some (.xorR 1 2) ∧
    decode 0x8AB4#16 = some (.addR 0xA 0xB) ∧ decode 0x8125#16 = some (.sub 1 2) ∧
    decode 0x81F6#16 = some (.shr 1 0xF) ∧ decode 0x8127#16 = some (.subn 1 2) ∧
    decode 0x812E#16 = some (.shl 1 2) := by decide

theorem test_decode_index :
    decode 0xA300#16 = some (.ldIdx 0x300) ∧ decode 0xF21E#16 = some (.addIdx 2) ∧
    decode 0xF329#16 = some (.ldFont 3) ∧ decode 0xF033#16 = some (.ldBcd 0) ∧
    decode 0xF155#16 = some (.stRegs 1) ∧ decode 0xF265#16 = some (.ldRegs 2) := by decide

theorem test_decode_display :
    decode 0x00E0#16 = some .cls ∧ decode 0xD125#16 = some (.drw 1 2 5) := by decide

theorem test_decode_input :
    decode 0xC30F#16 = some (.rnd 3 0x0F) ∧ decode 0xE49E#16 = some (.skp 4) ∧
    decode 0xE4A1#16 = some (.sknp 4) ∧ decode 0xF507#16 = some (.ldGdt 5) ∧
    decode 0xF30A#16 = some (.ldKey 3) ∧ decode 0xF515#16 = some (.ldSdt 5) ∧
    decode 0xF518#16 = some (.ldSst 5) := by decide

/-- The nearest unrecognized neighbours (V-ENC). -/
theorem test_decode_unrecognized :
    [0x0000, 0x00E1, 0x00EF, 0x01E0, 0x0FFF, 0x5121, 0x8128, 0x812D, 0x812F, 0x912F, 0xE49F, 0xE4A0,
      0xF000, 0xF00B, 0xF056, 0xF0FF].all (fun w : Half => decode w == none) = true := by decide

theorem test_encode :
    encode (.jp 0xABC) = 0x1ABC#16 ∧ encode (.ldI 0xA 0x12) = 0x6A12#16 ∧
    encode (.addR 0xA 0xB) = 0x8AB4#16 ∧ encode (.drw 1 2 5) = 0xD125#16 ∧
    encode (.ldRegs 2) = 0xF265#16 ∧ encodeBytes (.ldI 0xA 0x12) = [0x6A, 0x12] := by decide

theorem test_decode_truncated : decodeBytes [0x12#8] matches .error .truncated := by decide

theorem test_decode_table_word : decodeTableWord 16 0xD125 = some (.drw 1 2 5) := by decide

theorem test_assemble :
    assembleProgram [.line ⟨.ld, [.idx, .num 0x20A]⟩, .line ⟨.drw, [.reg 0, .reg 1, .num 2]⟩,
      .db [0xC3, 0x81], .dw 0x5011] =
      some [0xA2, 0x0A, 0xD0, 0x12, 0xC3, 0x81, 0x50, 0x11] := by decide

/-! ## One step of each instruction (`95_test_vectors.md`) -/

/-- V-CF 8: the popped address, the entry kept. -/
theorem test_ret : nextIs (run ((s0.push 0x206).setPc 0x300) 0x00EE)
    (fun t => t.pc == 0x206 && t.sp == 0 && t.stack[0] == 0x206) = true := by decide
/-- V-CF 9. -/
theorem test_ret_underflow : nextIs (run (s0.setPc 0x300) 0x00EE)
    (fun t => t.pc == 0x300 && t.fault == 2) = true := by decide
/-- V-CF 3: an odd target. -/
theorem test_jp : nextIs (run s0 0x1203) (fun t => t.pc == 0x203) = true := by decide
/-- V-CF 6: the sixteenth call succeeds. -/
theorem test_call : nextIs (run ((s0.setSp 15).setPc 0x300) 0x2400)
    (fun t => t.pc == 0x400 && t.sp == 16 && t.stack[15] == 0x302 && t.fault == 0) = true := by
  decide
/-- V-CF 7: the seventeenth faults. -/
theorem test_call_overflow : nextIs (run ((s0.setSp 16).setPc 0x300) 0x2400)
    (fun t => t.pc == 0x300 && t.sp == 16 && t.fault == 1) = true := by decide
/-- V-CF 11. -/
theorem test_seI : nextIs (run (s0.setReg 3 0x2A) 0x332A) (fun t => t.pc == 0x204) = true := by
  decide
/-- V-CF 13. -/
theorem test_sneI : nextIs (run (s0.setReg 3 0x2A) 0x432A) (fun t => t.pc == 0x202) = true := by
  decide
/-- V-CF 16. -/
theorem test_seR : nextIs (run (regs12 7 8) 0x5120) (fun t => t.pc == 0x202) = true := by decide
/-- V-CF 18. -/
theorem test_sneR : nextIs (run (regs12 7 8) 0x9120) (fun t => t.pc == 0x204) = true := by decide
/-- The last row of the BNNN table: not reduced modulo 4096. -/
theorem test_jpV0 : nextIs (run (s0.setReg 0 0xFF) 0xBFFF) (fun t => t.pc == 0x10FE) = true := by
  decide
/-- V-ALU-0. -/
theorem test_ldI : nextIs (run s0 0x6112) (fun t => t.reg 1 == 0x12) = true := by decide
/-- 7XNN table: wraps, VF unchanged. -/
theorem test_addI : nextIs (run ((regs12 0xFE 0).setVF 1) 0x7103)
    (fun t => t.reg 1 == 1 && t.reg 0xF == 1) = true := by decide
/-- V-ALU-0. -/
theorem test_ldR : nextIs (run (regs12 0 0x33) 0x8120) (fun t => t.reg 1 == 0x33) = true := by
  decide
/-- V-ALU-0. -/
theorem test_orR : nextIs (run ((regs12 0xF0 0x0F).setVF 1) 0x8121)
    (fun t => t.reg 1 == 0xFF && t.reg 0xF == 1) = true := by decide
/-- V-ALU-0. -/
theorem test_andR : nextIs (run (regs12 0xF3 0x3F) 0x8122) (fun t => t.reg 1 == 0x33) = true := by
  decide
/-- V-ALU-0. -/
theorem test_xorR : nextIs (run (regs12 0xFF 0x0F) 0x8123) (fun t => t.reg 1 == 0xF0) = true := by
  decide
/-- V-ALU-1. -/
theorem test_addR : nextIs (run (regs12 0xFF 0xFF) 0x8124)
    (fun t => t.reg 1 == 0xFE && t.reg 0xF == 1) = true := by decide
/-- V-ALU-5: destination VF, the flag stays. -/
theorem test_addR_vf : nextIs (run ((s0.setReg 2 0x90).setVF 0x80) 0x8F24)
    (fun t => t.reg 0xF == 1) = true := by decide
/-- V-ALU-2: equal operands give flag 0. -/
theorem test_sub : nextIs (run (regs12 5 5) 0x8125)
    (fun t => t.reg 1 == 0 && t.reg 0xF == 0) = true := by decide
/-- V-ALU-2. -/
theorem test_sub_wraps : nextIs (run (regs12 3 5) 0x8125)
    (fun t => t.reg 1 == 0xFE && t.reg 0xF == 0) = true := by decide
/-- V-ALU-4, VY ignored. -/
theorem test_shr : nextIs (run (regs12 5 0xFF) 0x8126)
    (fun t => t.reg 1 == 2 && t.reg 0xF == 1 && t.reg 2 == 0xFF) = true := by decide
/-- V-ALU-3. -/
theorem test_subn : nextIs (run (regs12 1 0xFF) 0x8127)
    (fun t => t.reg 1 == 0xFE && t.reg 0xF == 1) = true := by decide
/-- V-ALU-4. -/
theorem test_shl : nextIs (run (regs12 0x81 0) 0x810E)
    (fun t => t.reg 1 == 2 && t.reg 0xF == 1) = true := by decide
/-- V-IDX. -/
theorem test_ldIdx : nextIs (run s0 0xAFFF) (fun t => t.i == 0xFFF) = true := by decide
/-- V-IDX, FX1E table. -/
theorem test_addIdx : nextIs (run ((s0.setI 0xFFF).setReg 2 0xFF) 0xF21E)
    (fun t => t.i == 0x0FE && t.reg 0xF == 1) = true := by decide
/-- V-IDX, word FF1E: the old VF is the addend. -/
theorem test_addIdx_vf : nextIs (run ((s0.setI 0x300).setVF 1) 0xFF1E)
    (fun t => t.i == 0x301 && t.reg 0xF == 0) = true := by decide
/-- V-IDX. -/
theorem test_ldFont : nextIs (run (s0.setReg 3 0xFF) 0xF329) (fun t => t.i == 0x4FB) = true := by
  decide
/-- V-IDX, FX33 table. -/
theorem test_ldBcd : nextIs (run ((s0.setI 0x300).setReg 0 0xFE) 0xF033)
    (fun t => Memory.load t.mem 0x300 4 == [2, 5, 4, 0]) = true := by decide
/-- V-FLT: FX33 at 0xFFE faults and stores nothing. -/
theorem test_ldBcd_range : nextIs (run ((s0.setI 0xFFE).setReg 0 0xFE) 0xF033)
    (fun t => t.fault == 4 && Memory.read t.mem 0xFFE == 0) = true := by decide
/-- V-IDX. -/
theorem test_stRegs : nextIs (run ((regs12 0x22 0x33).setI 0x400) 0xF155)
    (fun t => Memory.load t.mem 0x400 3 == [0, 0x22, 0] && t.i == 0x400) = true := by decide
/-- V-FLT: the font. -/
theorem test_stRegs_font : nextIs (run (s0.setI 0x4F) 0xF155) (fun t => t.fault == 5) = true := by
  decide
/-- V-IDX. -/
theorem test_ldRegs : nextIs (run ((atI [2, 5, 4, 9]).setReg 3 0x77) 0xF265)
    (fun t => t.reg 0 == 2 && t.reg 1 == 5 && t.reg 2 == 4 && t.reg 3 == 0x77) = true := by decide
/-- V-FLT: FF65 at 0xFF1. -/
theorem test_ldRegs_range : nextIs (run (s0.setI 0xFF1) 0xFF65)
    (fun t => t.fault == 4) = true := by decide
/-- V-DISP 1. -/
theorem test_cls : nextIs (run (s0.setDisp (Display.setCell Display.blank 3 4 true)) 0x00E0)
    (fun t => t.disp == Display.blank && t.redraw) = true := by decide
/-- V-DISP 3: the start coordinate wraps. -/
theorem test_drw : nextIs (run (((atI [0x3C, 0xC3]).setReg 0 68).setReg 1 33) 0xD012)
    (fun t => t.reg 0xF == 0 &&
      ((List.range 64).filter fun c => Display.cell t.disp 1 c) == [6, 7, 8, 9] &&
      ((List.range 64).filter fun c => Display.cell t.disp 2 c) == [4, 5, 10, 11]) = true := by
  decide
/-- V-DISP 4: a collision. -/
theorem test_drw_collision :
    nextIs (run ((((atI [0x3C]).setReg 0 4).setReg 1 1).setDisp
        (Display.setCell Display.blank 1 6 true)) 0xD011)
      (fun t => t.reg 0xF == 1 &&
        ((List.range 64).filter fun c => Display.cell t.disp 1 c) == [7, 8, 9]) = true := by decide
/-- V-RND: NN = 00 gives 00 whatever the draw. -/
theorem test_rnd (s : State) : ∃ t, exec (.rnd 3 0) s = .next t ∧ t.reg 3 = 0 :=
  ⟨_, rfl, by simp⟩
/-- V-KEY 5. -/
theorem test_skp : nextIs (run ((keyed 15).setReg 4 15) 0xE49E) (fun t => t.pc == 0x204) = true := by
  decide
/-- V-KEY 6. -/
theorem test_skp_range : nextIs (run (s0.setReg 4 0x10) 0xE49E)
    (fun t => t.fault == 6 && t.pc == 0x200) = true := by decide
/-- V-KEY 4. -/
theorem test_sknp : nextIs (run ((keyed 10).setReg 4 10) 0xE4A1)
    (fun t => t.pc == 0x202) = true := by decide
/-- V-TMR 3. -/
theorem test_ldGdt : nextIs (run (s0.setDt 0x2C) 0xF507) (fun t => t.reg 5 == 0x2C) = true := by
  decide
/-- V-KEY 8: waiting. -/
theorem test_ldKey_waits : nextIs (run s0 0xF30A) (fun t => t.pc == 0x200) = true ∧
    report (s0.withFetchWord 16 0xF30A) = .waiting := by decide
/-- S8: one key pressed, its number loaded. -/
theorem test_ldKey : ∃ t, exec (.ldKey 0) (keyed 7) = .next t ∧ t.reg 0 = 7 ∧ t.pc = 0x202 := by
  have h : (keyed 7).pressed = [7] := by decide
  refine ⟨_, by simp only [exec, execLdKey, h]; rfl, ?_, rfl⟩
  simp [State.drawKey]
/-- V-TMR 1. -/
theorem test_ldSdt : nextIs (run (s0.setReg 5 0x3C) 0xF515) (fun t => t.dt == 0x3C) = true := by
  decide
/-- V-TMR 2. -/
theorem test_ldSst : nextIs (run (s0.setReg 5 5) 0xF518) (fun t => t.st == 5) = true := by decide

/-! ## Steps and events -/

/-- P8: an unrecognized word is reported and skipped. -/
theorem test_unrecognized : nextIs (run s0 0x5011) (fun t => t.pc == 0x202 && t.fault == 0) = true ∧
    report (s0.withFetchWord 16 0x5011) = .decodeError 0x200 0x5011 := by decide
/-- V-FLT: the fetch at 0xFFF. -/
theorem test_fetchRange : nextIs (step (s0.setPc 0xFFF)) (fun t => t.fault == 3) = true ∧
    report (s0.setPc 0xFFF) = .fault 3 (some 0xFFF) := by decide
/-- V-TMR 8: ticks are not gated by the latch. -/
theorem test_tick : nextIs (applyEvent .tick ((s0.setFault 1).setDt 2))
    (fun t => t.dt == 1 && t.st == 0 && t.fault == 1) = true := by decide
/-- V-RST: an image of three bytes. -/
theorem test_reset : nextIs (applyEvent (.reset (some [0x60, 0x05, 0x61])) (s0.setFault 3))
    (fun t => Memory.load t.mem 0x1FF 5 == [0, 0x60, 0x05, 0x61, 0] && t.fault == 0) = true := by
  decide

/-! ## Witnesses: a state and operands that meet the hypotheses of each statement -/

theorem witness_EncodeInvertsDecode : decode 0x8AB4#16 = some (.addR 0xA 0xB) := by decide

theorem witness_DecoderFollowsOpcodeTable_row :
    (⟨"SKP", 0xF0FF, 0xE09E⟩ : OpRow) ∈ opcodeTable ∧ 0xE49E#16 &&& 0xF0FF#16 = 0xE09E#16 := by
  decide

theorem witness_DecoderFollowsOpcodeTable_none :
    ∀ r ∈ opcodeTable, 0x5121#16 &&& r.mask ≠ r.value := by decide

/-- The last fetch that is in range, of a word the hardware runs. -/
theorem witness_StepRunsDecodedInstruction :
    let s := (s0.setPc 0xFFE).withFetchWord 16 0x1200
    s.fault = 0#3 ∧ s.pc.toNat ≤ 0xFFE ∧
    (0x1200#16).toNat = (Memory.read s.mem s.pc.toNat).toNat * 256 +
      (Memory.read s.mem (s.pc.toNat + 1)).toNat ∧
    decode 0x1200#16 = some (.jp 0x200) := by decide

theorem witness_UnrecognizedWordIsSkipped :
    let s := (s0.setPc 0xFFE).withFetchWord 16 0x5011
    s.fault = 0#3 ∧ s.pc.toNat ≤ 0xFFE ∧
    (0x5011#16).toNat = (Memory.read s.mem s.pc.toNat).toNat * 256 +
      (Memory.read s.mem (s.pc.toNat + 1)).toNat ∧
    decode 0x5011#16 = none := by decide

theorem witness_FetchBeyondMemoryFaults :
    (s0.setPc 0xFFF).fault = 0#3 ∧ 0xFFE < (s0.setPc 0xFFF).pc.toNat := by decide

theorem witness_LatchedFaultFreezesTheCore :
    (s0.setFault 7).fault ≠ 0#3 ∧ (∀ rom, Event.step ≠ .reset rom) ∧
    applyEvent .step (s0.setFault 7) = .next (s0.setFault 7) :=
  ⟨by decide, fun _ => by simp, rfl⟩

theorem witness_FaultsArePrecise :
    ∃ t, (s0.setPc 0xFFF).fault = 0#3 ∧ step (s0.setPc 0xFFF) = .next t ∧ t.fault ≠ 0#3 :=
  ⟨(s0.setPc 0xFFF).fetchFault, by decide, rfl, by decide⟩

theorem witness_ReportMatchesNextState :
    (s0.setSp 16).fault = 0#3 ∧ (s0.setSp 16).sp.toNat ≤ 16 ∧
    report (s0.withFetchWord 16 0x1200) = .completed ∧
    report (s0.withFetchWord 16 0xF00A) = .waiting ∧
    report s0 = .decodeError 0x200 0x0000 ∧
    report ((s0.setSp 16).withFetchWord 16 0x2400) = .fault 1 (some 0x200) := by decide

theorem witness_ReturnPopsTheStack :
    (s0.setSp 16).sp.toNat = (15 : Fin 16).val + 1 ∧ (s0.setSp 1).sp.toNat = (0 : Fin 16).val + 1 ∧
    s0.sp.toNat = 0 := by decide

theorem witness_CallPushesReturnAddress :
    s0.sp.toNat = (0 : Fin 16).val ∧ (s0.setSp 15).sp.toNat = (15 : Fin 16).val ∧
    (s0.setSp 16).sp.toNat = 16 := by decide

theorem witness_OtherInstructionsAdvanceByTwo :
    ∃ t, exec (.ldI 0 5) s0 = .next t ∧ reportInstr (.ldI 0 5) s0 = .completed ∧
    (Instr.ldI 0 5).mnemonic ∉
      ["RET", "JP", "CALL", "SE.I", "SNE.I", "SE.R", "SNE.R", "JP.V0", "SKP", "SKNP"] :=
  ⟨_, rfl, rfl, by decide⟩

theorem witness_ReturnResumesAfterCall :
    ∃ t u : State, (s0.setSp 15).sp.toNat ≤ 15 ∧ exec (.call 0x400) (s0.setSp 15) = .next t ∧
      u.stack = t.stack ∧ u.sp = t.sp :=
  ⟨_, _, by decide, rfl, rfl, rfl⟩

/-- For the statements of 8XY4 to 8XYE: a destination other than VF, and VF itself. -/
theorem witness_FlagDestinations : (1#4 : RegIx) ≠ 0xF#4 ∧ ¬ (15#4 : RegIx) ≠ 0xF#4 := by decide

theorem witness_OnlySevenInstructionsWriteTheFlag :
    ∃ t, exec (.ldI 0xF 5) s0 = .next t ∧ t.reg 0xF#4 ≠ s0.reg 0xF#4 :=
  ⟨_, rfl, by decide⟩

theorem witness_StoreDecimalDigits :
    (0x050 ≤ (s0.setI 0x050).i.toNat ∧ (s0.setI 0x050).i.toNat + 2 ≤ 0xFFF) ∧
    (0x050 ≤ (s0.setI 0xFFD).i.toNat ∧ (s0.setI 0xFFD).i.toNat + 2 ≤ 0xFFF) ∧
    (s0.setI 0x04F).i.toNat ≤ 0x04F ∧ 0xFFF < (s0.setI 0xFFE).i.toNat + 2 := by decide

theorem witness_StoreRegisters :
    (0x050 ≤ (s0.setI 0x050).i.toNat ∧ (s0.setI 0x050).i.toNat + (0xF#4).toNat ≤ 0xFFF) ∧
    (0x050 ≤ (s0.setI 0xFF0).i.toNat ∧ (s0.setI 0xFF0).i.toNat + (0xF#4).toNat ≤ 0xFFF) ∧
    (s0.setI 0x04F).i.toNat ≤ 0x04F ∧ 0xFFF < (s0.setI 0xFF1).i.toNat + (0xF#4).toNat := by
  decide

theorem witness_LoadRegisters :
    (s0.setI 0xFF0).i.toNat + (0xF#4).toNat ≤ 0xFFF ∧
    0xFFF < (s0.setI 0xFF1).i.toNat + (0xF#4).toNat := by decide

theorem witness_LoadRestoresStoredRegisters :
    ∃ t u : State, 0x050 ≤ (s0.setI 0x300).i.toNat ∧
      (s0.setI 0x300).i.toNat + (0xF#4).toNat ≤ 0xFFF ∧
      exec (.stRegs 0xF#4) (s0.setI 0x300) = .next t ∧ u.mem = t.mem ∧ u.i = (s0.setI 0x300).i :=
  ⟨_, _, by decide, by decide, rfl, rfl, rfl⟩

theorem witness_StoreIsSeenByFetch :
    ∃ t u : State, 0x050 ≤ (s0.setI 0x300).i.toNat ∧
      (s0.setI 0x300).i.toNat + (1#4).toNat ≤ 0xFFF ∧
      exec (.stRegs 1#4) (s0.setI 0x300) = .next t ∧ u.mem = t.mem ∧
      (1#4).toNat = (0#4).toNat + 1 ∧ (1#4).toNat ≤ (1#4).toNat ∧
      u.pc.toNat = (s0.setI 0x300).i.toNat + (0#4).toNat :=
  ⟨_, (s0.setPc 0x300).setMem (Memory.store [] 0x300 [0, 0]), by decide, by decide, rfl, by decide,
    by decide, by decide, by decide⟩

theorem witness_DrawSprite :
    (s0.setI 0xFFF).i.toNat + (1#4).toNat - 1 ≤ 0xFFF ∧
    (1 ≤ (2#4).toNat ∧ 0xFFF < (s0.setI 0xFFF).i.toNat + (2#4).toNat - 1) ∧
    SpriteBitOn (atI [0x81]) 0 1 1#4 0 7 ∧
    Display.cell ((atI [0x81]).setDisp (Display.setCell Display.blank 0 7 true)).disp 0 7 = true :=
  ⟨by decide, by decide, ⟨0, 7, by decide, by decide, by decide, by decide, by decide⟩, by decide⟩

theorem witness_DrawTwiceRestoresDisplay :
    (0#4 : RegIx) ≠ 0xF#4 ∧ (1#4 : RegIx) ≠ 0xF#4 ∧
    ((1#4 : Nibble) = 0#4 ∨ (atI [0x81]).i.toNat + (1#4).toNat - 1 ≤ 0xFFF) := by decide

theorem witness_RedrawFollowsDisplayChanges :
    ∃ t, step ((s0.setDisp (Display.setCell Display.blank 3 4 true)).withFetchWord 16 0x00E0) =
        .next t ∧
      Display.cell t.disp (3 : Fin 32) (4 : Fin 64) ≠
        Display.cell (Display.setCell Display.blank 3 4 true) (3 : Fin 32) (4 : Fin 64) :=
  ⟨_, rfl, by decide⟩

theorem witness_KeySkips :
    ((keyed 15).setReg 4 15).reg 4 = 0x0F ∧ (15 : Fin 16).val = 0x0F ∧
    0x0F < ((s0.setReg 4 0x10).reg 4).toNat := by decide

theorem witness_KeyWaitLoadsAPressedKey :
    (∀ k : Fin 16, s0.key[k] = false) ∧ (keyed 15).key[(15 : Fin 16)] = true := by decide

theorem witness_TickCountsDown :
    0 < (s0.setDt 1).dt.toNat ∧ s0.dt.toNat = 0 ∧ 0 < (s0.setSt 0xFF).st.toNat := by decide

theorem witness_OnlyKeyWriteChangesKeys :
    ∃ t, applyEvent (.keyWrite 3 true) s0 = .next t ∧ t.key ≠ s0.key :=
  ⟨_, rfl, by decide⟩

theorem witness_ResetLoadsTheImage : (List.replicate 3584 (0x12#8)).length ≤ 3584 :=
  List.length_replicate.le

theorem witness_ResetWithoutImageLatchesFailure :
    3584 < (List.replicate 3585 (0x12#8)).length := by
  rw [List.length_replicate]
  omega

theorem witness_StepKeepsInvariant :
    ∃ t, Inv (s0.setI 0xFFF) ∧ step (s0.setI 0xFFF) = .next t :=
  ⟨(s0.setI 0xFFF).skipUnrecognized, by decide, rfl⟩

theorem witness_EveryReachableStateIsLegal :
    ∃ t, runEvents [.keyWrite 3 true, .tick, .step] State.reset = .next t :=
  ⟨_, rfl⟩

theorem witness_FrameOfEveryInstruction : ∃ t, exec (.ldI 0 5) s0 = .next t := ⟨_, rfl⟩

theorem witness_PcAndReturnAddressesStayBounded :
    ∃ t, s0.pc.toNat ≤ 0x10FE ∧ (∀ k : Fin 16, s0.stack[k].toNat ≤ 0x1000) ∧ step s0 = .next t :=
  ⟨s0.skipUnrecognized, by decide, by decide, rfl⟩

theorem witness_SoundAndRedrawAreNeverRead : ∃ t, step s0 = .next t :=
  ⟨s0.skipUnrecognized, rfl⟩

theorem witness_SelfJumpIsAFixedPoint : EndedAt 0x200 (s0.withFetchWord 16 0x1200) := by
  refine ⟨by decide, by decide, by decide⟩

end Sys2Proof.Tests
end

section
/-!
SUPPORT. Decoding the word of any instruction gives the instruction back (R90, R94): the word's
leading nibble selects the family, and the fields are read where the encoder put them.
-/
namespace Sys2Proof

theorem decode_encode (i : Instr) : decode (encode i) = some i := by
  cases i with
  | cls | ret => decide
  | jp | call | ldIdx | jpV0 => simp [encode, decode]
  | seI | sneI | ldI | addI | rnd => simp [encode, decode]
  | drw => simp [encode, decode]
  | seR | sneR => simp [encode, decode, decodeXY0]
  | ldR | orR | andR | xorR | addR | sub | shr | subn | shl => simp [encode, decode, decode8]
  | skp | sknp => simp [encode, decode, decodeE]
  | ldGdt | ldKey | ldSdt | ldSst | addIdx | ldFont | ldBcd | stRegs | ldRegs =>
    simp [encode, decode, decodeF]

end Sys2Proof
end

section
/-!
SUPPORT. The frame rules: what `ChangesOnly` says of one update, and how updates compose. Each rule
holds for every set `p` of elements that allows the element written, so the rules of several updates
chain to the frame of an instruction.
-/
namespace Sys2Proof.Safety

open Sys2Proof.Machine

variable {s t u : State} {p : Elem → Prop}

theorem Elem.Same.trans {e : Elem} (h : e.Same s t) (h' : e.Same t u) : e.Same s u := by
  cases e <;> exact Eq.trans h' h

theorem ChangesOnly.trans (h : ChangesOnly s t p) (h' : ChangesOnly t u p) : ChangesOnly s u p :=
  fun e he => (h e he).trans (h' e he)

theorem changesOnly_setPc (a : Half) (hp : p .pc) : ChangesOnly s (s.setPc a) p := by
  intro e he
  cases e with
  | pc => exact absurd hp he
  | _ => rfl

theorem changesOnly_setSp (n : BitVec 5) (hp : p .sp) : ChangesOnly s (s.setSp n) p := by
  intro e he
  cases e with
  | sp => exact absurd hp he
  | _ => rfl

theorem changesOnly_skipIf (c : Bool) (hp : p .pc) : ChangesOnly s (s.skipIf c) p :=
  changesOnly_setPc _ hp

theorem changesOnly_pop (hp : p .sp) : ChangesOnly s s.pop p := changesOnly_setSp _ hp

/-- A push writes the entry at the old `SP`, and `SP` (R123). -/
theorem changesOnly_push (a : Half) (k : Fin 16) (hk : s.sp.toNat = k.val) (hp : p (.stack k))
    (hp' : p .sp) : ChangesOnly s (s.push a) p := by
  intro e he
  cases e with
  | sp => exact absurd hp' he
  | stack j =>
    have hj : j.val ≠ s.sp.toNat := fun h => he (Fin.ext (h.trans hk) ▸ hp)
    exact (s.push_stack_getElem a j.val j.isLt).trans (if_neg hj)
  | _ => rfl

end Sys2Proof.Safety
end

section
/-!
SUPPORT. What the control transfers answer (R121, R123, R128): the targets and the stack pointer as
numbers, and the outcome of a return and of a call in each case of their checks.
-/
namespace Sys2Proof.Machine

variable (s : State)

/-! ## Targets -/

@[simp] theorem toNat_addrOperand (nnn : Addr) : (addrOperand nnn).toNat = nnn.toNat := by
  have := nnn.isLt
  simp only [addrOperand, BitVec.toNat_setWidth]
  omega

/-- The sum of a byte and a 12-bit address does not wrap at 16 bits (R128). -/
theorem State.toNat_indexedTarget (nnn : Addr) :
    (s.indexedTarget nnn).toNat = (s.reg 0x0#4).toNat + nnn.toNat := by
  have := nnn.isLt
  have := (s.reg 0x0#4).isLt
  simp only [State.indexedTarget, BitVec.toNat_add, BitVec.toNat_setWidth, toNat_addrOperand]
  omega

/-! ## The stack pointer as a count -/

theorem State.toNat_pop_sp (k : Nat) (h : s.sp.toNat = k + 1) : s.pop.sp.toNat = k := by
  rw [State.pop_sp]
  bv_omega

theorem State.toNat_push_sp (a : Half) (h : s.sp.toNat < 16) :
    (s.push a).sp.toNat = s.sp.toNat + 1 := by
  rw [State.push_sp]
  bv_omega

/-! ## Outcomes -/

theorem exec_ret_of_pos (h0 : s.sp.toNat ≠ 0) (h : s.sp.toNat ≤ 16) :
    exec .ret s = .next (s.pop.setPc s.top) :=
  (s.withLegalSp_eq_next _ _).2
    ⟨h, (s.guarded_eq_next _ _ _).2 (.inr ⟨s.retCheck_eq_none.2 h0, rfl⟩)⟩

theorem exec_ret_of_zero (h : s.sp.toNat = 0) : exec .ret s = .next (s.raise .stackUnderflow) :=
  (s.withLegalSp_eq_next _ _).2
    ⟨by omega, (s.guarded_eq_next _ _ _).2 (.inl ⟨_, (s.retCheck_eq_some _).2 ⟨h, rfl⟩, rfl⟩)⟩

theorem exec_call_of_lt (nnn : Addr) (h : s.sp.toNat < 16) :
    exec (.call nnn) s = .next ((s.push (s.pc + 2#16)).setPc (addrOperand nnn)) :=
  (s.withLegalSp_eq_next _ _).2
    ⟨h.le, (s.guarded_eq_next _ _ _).2 (.inr ⟨s.callCheck_eq_none.2 h.ne, rfl⟩)⟩

theorem exec_call_of_full (nnn : Addr) (h : s.sp.toNat = 16) :
    exec (.call nnn) s = .next (s.raise .stackOverflow) :=
  (s.withLegalSp_eq_next _ _).2
    ⟨h.le, (s.guarded_eq_next _ _ _).2 (.inl ⟨_, (s.callCheck_eq_some _).2 ⟨h, rfl⟩, rfl⟩)⟩

/-! ## Reports -/

theorem reportInstr_ret_of_pos (h : s.sp.toNat ≠ 0) : reportInstr .ret s = .completed :=
  congrArg reportCheck (s.retCheck_eq_none.2 h)

theorem reportInstr_ret_of_zero (h : s.sp.toNat = 0) :
    reportInstr .ret s = .fault 2#3 (some s.pc.toNat) :=
  congrArg reportCheck ((s.retCheck_eq_some _).2 ⟨h, rfl⟩)

theorem reportInstr_call_of_lt (nnn : Addr) (h : s.sp.toNat < 16) :
    reportInstr (.call nnn) s = .completed :=
  congrArg reportCheck (s.callCheck_eq_none.2 h.ne)

theorem reportInstr_call_of_full (nnn : Addr) (h : s.sp.toNat = 16) :
    reportInstr (.call nnn) s = .fault 1#3 (some s.pc.toNat) :=
  congrArg reportCheck ((s.callCheck_eq_some _).2 ⟨h, rfl⟩)

end Sys2Proof.Machine
end

section
/-!
PROOF. The statements on control transfer (`40_control_flow.md`).
-/
namespace Sys2Proof

open Sys2Proof.Machine Sys2Proof.Safety

/-- Settles O16, by the two cases of the check of 00EE. -/
theorem returnPopsTheStack : Obligations.ReturnPopsTheStack := by
  refine ⟨decode_encode .ret, fun s k hk => ?_, fun s h0 => ?_⟩
  · have h0 : s.sp.toNat ≠ 0 := by omega
    have h16 : s.sp.toNat ≤ 16 := by omega
    exact ⟨s.pop.setPc s.top, exec_ret_of_pos s h0 h16, s.toNat_pop_sp k hk, s.top_eq k k.isLt hk,
      (changesOnly_pop (.inl rfl)).trans (changesOnly_setPc _ (.inr rfl)),
      reportInstr_ret_of_pos s h0⟩
  · exact ⟨exec_ret_of_zero s h0, reportInstr_ret_of_zero s h0⟩

/-- Settles O17: the outcome is one write of `pc`. -/
theorem jumpSetsPc : Obligations.JumpSetsPc := fun nnn _ =>
  ⟨decode_encode (.jp nnn), _, rfl, toNat_addrOperand nnn, changesOnly_setPc _ rfl, rfl⟩

/-- Settles O18, by the two cases of the check of 2NNN. -/
theorem callPushesReturnAddress : Obligations.CallPushesReturnAddress := by
  refine ⟨fun nnn => decode_encode (.call nnn), fun nnn s k hk => ?_, fun nnn s h16 => ?_⟩
  · have hlt : s.sp.toNat < 16 := by omega
    have entry : (s.push (s.pc + 2#16)).stack[k] = s.pc + 2#16 :=
      (s.push_stack_getElem _ k.val k.isLt).trans (if_pos hk.symm)
    have count : (s.push (s.pc + 2#16)).sp.toNat = k.val + 1 := hk ▸ s.toNat_push_sp _ hlt
    exact ⟨_, exec_call_of_lt s nnn hlt, entry, count, toNat_addrOperand nnn,
      (changesOnly_push _ k hk (.inl rfl) (.inr (.inl rfl))).trans
        (changesOnly_setPc _ (.inr (.inr rfl))),
      reportInstr_call_of_lt s nnn hlt⟩
  · exact ⟨exec_call_of_full s nnn h16, reportInstr_call_of_full s nnn h16⟩

/-- Settles O19: both outcomes are a `skipIf` on the comparison with the immediate. -/
theorem skipOnImmediate : Obligations.SkipOnImmediate := fun x nn s =>
  ⟨decode_encode (.seI x nn), decode_encode (.sneI x nn),
    ⟨s.skipIf (s.reg x == nn), rfl, by simp, changesOnly_skipIf _ rfl, rfl⟩,
    ⟨s.skipIf (s.reg x != nn), rfl, by simp, changesOnly_skipIf _ rfl, rfl⟩⟩

/-- Settles O20: both outcomes are a `skipIf` on the comparison of the two registers. -/
theorem skipOnRegister : Obligations.SkipOnRegister := fun x y s =>
  ⟨decode_encode (.seR x y), decode_encode (.sneR x y),
    ⟨s.skipIf (s.reg x == s.reg y), rfl, by simp, changesOnly_skipIf _ rfl, rfl⟩,
    ⟨s.skipIf (s.reg x != s.reg y), rfl, by simp, changesOnly_skipIf _ rfl, rfl⟩⟩

/-- Settles O21: the outcome is one write of `pc`, and the 16-bit sum does not wrap. -/
theorem indexedJumpAddsV0 : Obligations.IndexedJumpAddsV0 := fun nnn s =>
  ⟨decode_encode (.jpV0 nnn), _, rfl, s.toNat_indexedTarget nnn, changesOnly_setPc _ rfl, rfl⟩

end Sys2Proof
end

section
/-!
SUPPORT. The frame rules of the register writes and of `pc <- pc + 2`.
-/
namespace Sys2Proof.Safety

open Sys2Proof.Machine

variable {s : State} {p : Elem → Prop}

theorem changesOnly_setReg (x : RegIx) (b : Byte) (hp : p (.reg x)) :
    ChangesOnly s (s.setReg x b) p := by
  intro e he
  cases e with
  | reg k =>
    have hk : k ≠ x := fun h => he (h ▸ hp)
    exact (s.reg_setReg x k b).trans (if_neg hk)
  | _ => rfl

theorem changesOnly_setVF (f : Byte) (hp : p (.reg 0xF#4)) : ChangesOnly s (s.setVF f) p :=
  changesOnly_setReg _ f hp

theorem changesOnly_advance (hp : p .pc) : ChangesOnly s s.advance p := changesOnly_setPc _ hp

end Sys2Proof.Safety
end

section
/-!
SUPPORT. What the register instructions answer (R140 to R151): the state after a result with and
without a flag, and the results and flags as numbers.
-/
namespace Sys2Proof.Machine

open Sys2Proof.Safety

/-! ## Outcomes -/

section
variable (s : State) (x : RegIx)

/-- What `State.result` answers, its frame included (R141 to R146). -/
theorem State.result_outcome (b : Byte) :
    ∃ t, s.result x b = .next t ∧ t.reg x = b ∧ t.pc = s.pc + 2#16 ∧
      ChangesOnly s t (fun e => e = .reg x ∨ e = .pc) :=
  ⟨_, rfl, by simp, rfl,
    (changesOnly_setReg x b (.inl rfl)).trans (changesOnly_advance (.inr rfl))⟩

/-- What `State.resultFlag` answers, its frame included: VF holds the flag also when it is the
destination, for the flag is written last (R140). -/
theorem State.resultFlag_outcome (b f : Byte) :
    ∃ t, s.resultFlag x b f = .next t ∧ (x ≠ 0xF#4 → t.reg x = b) ∧ t.reg 0xF#4 = f ∧
      t.pc = s.pc + 2#16 ∧ ChangesOnly s t (fun e => e = .reg x ∨ e = .reg 0xF#4 ∨ e = .pc) :=
  ⟨_, rfl, fun hx => by simp [hx], by simp, rfl,
    ((changesOnly_setReg x b (.inl rfl)).trans (changesOnly_setVF f (.inr (.inl rfl)))).trans
      (changesOnly_advance (.inr (.inr rfl)))⟩

end

/-! ## Results and flags as numbers -/

section
variable (a b : Byte)

/-- A difference of bytes is the integer difference modulo 256 (R148, R150). -/
theorem toNat_sub_eq_emod :
    ((a - b).toNat : Int) = ((a.toNat : Int) - (b.toNat : Int)) % 256 := by
  have := b.isLt
  rw [BitVec.toNat_sub]
  omega

theorem toNat_ushiftRight_one : (a >>> 1).toNat = a.toNat / 2 := by
  rw [BitVec.toNat_ushiftRight, Nat.shiftRight_one]

theorem toNat_shiftLeft_one : (a <<< 1).toNat = a.toNat * 2 % 256 := by
  rw [BitVec.toNat_shiftLeft, Nat.shiftLeft_eq]

theorem carryFlag_eq :
    carryFlag a b = if 255 < a.toNat + b.toNat then 1#8 else 0#8 := by
  simp [carryFlag, flagByte]

theorem greaterFlag_eq : greaterFlag a b = if b.toNat < a.toNat then 1#8 else 0#8 := by
  simp [greaterFlag, flagByte]

theorem toNat_flagByte (c : Bool) : (flagByte c).toNat = c.toNat := by
  cases c <;> rfl

theorem toNat_lowBitFlag : (lowBitFlag a).toNat = a.toNat % 2 := by
  rw [lowBitFlag, toNat_flagByte, BitVec.getLsbD, Nat.toNat_testBit, Nat.pow_zero, Nat.div_one]

theorem toNat_highBitFlag : (highBitFlag a).toNat = a.toNat / 128 := by
  have := a.isLt
  rw [highBitFlag, toNat_flagByte, BitVec.getLsbD, Nat.toNat_testBit]
  omega

end

end Sys2Proof.Machine
end

section
/-!
PROOF. The statements on register load, arithmetic, logic and shift (`41_alu.md`).
-/
namespace Sys2Proof

open Sys2Proof.Machine Sys2Proof.Safety

/-- Settles O24: both outcomes are a `result`, the second of a sum of bytes. -/
theorem loadAndAddImmediate : Obligations.LoadAndAddImmediate := by
  intro x nn s
  refine ⟨decode_encode (.ldI x nn), decode_encode (.addI x nn), ?_, ?_⟩
  · obtain ⟨t, ht, hx, hpc, hframe⟩ := s.result_outcome x nn
    exact ⟨t, ht, hx, hpc, hframe, rfl⟩
  · obtain ⟨t, ht, hx, hpc, hframe⟩ := s.result_outcome x (s.reg x + nn)
    exact ⟨t, ht, by rw [hx, BitVec.toNat_add], hpc, hframe, rfl⟩

/-- Settles O25: each of the four outcomes is a `result` of a byte with the bits asked for. -/
theorem moveAndLogic : Obligations.MoveAndLogic := by
  intro x y s
  refine ⟨decode_encode (.ldR x y), decode_encode (.orR x y), decode_encode (.andR x y),
    decode_encode (.xorR x y), fun i f hif => ?_⟩
  obtain ⟨b, hexec, hbits, hreport⟩ : ∃ b, exec i s = s.result x b ∧
      (∀ j, b.getLsbD j = f ((s.reg x).getLsbD j) ((s.reg y).getLsbD j)) ∧
      reportInstr i s = .completed := by
    simp only [List.mem_cons, Prod.mk.injEq, List.not_mem_nil, or_false] at hif
    obtain ⟨rfl, rfl⟩ | ⟨rfl, rfl⟩ | ⟨rfl, rfl⟩ | ⟨rfl, rfl⟩ := hif
    · exact ⟨s.reg y, rfl, fun _ => rfl, rfl⟩
    · exact ⟨s.reg x ||| s.reg y, rfl, fun _ => BitVec.getLsbD_or, rfl⟩
    · exact ⟨s.reg x &&& s.reg y, rfl, fun _ => BitVec.getLsbD_and, rfl⟩
    · exact ⟨s.reg x ^^^ s.reg y, rfl, fun _ => BitVec.getLsbD_xor, rfl⟩
  obtain ⟨t, ht, hx, hpc, hframe⟩ := s.result_outcome x b
  exact ⟨t, hexec.trans ht, fun j _ => hx ▸ hbits j, hpc, hframe, hreport⟩

/-- Settles O26: the outcome is a `resultFlag` of the sum and the carry. -/
theorem addSetsCarry : Obligations.AddSetsCarry := by
  intro x y s
  obtain ⟨t, ht, hx, hf, hpc, hframe⟩ :=
    s.resultFlag_outcome x (s.reg x + s.reg y) (carryFlag (s.reg x) (s.reg y))
  exact ⟨decode_encode (.addR x y), t, ht, fun h => by rw [hx h, BitVec.toNat_add],
    hf.trans (carryFlag_eq _ _), hpc, hframe, rfl⟩

/-- Settles O27: the outcome is a `resultFlag` of the difference and the strict comparison. -/
theorem subtractSetsGreater : Obligations.SubtractSetsGreater := by
  intro x y s
  obtain ⟨t, ht, hx, hf, hpc, hframe⟩ :=
    s.resultFlag_outcome x (s.reg x - s.reg y) (greaterFlag (s.reg x) (s.reg y))
  exact ⟨decode_encode (.sub x y), t, ht, fun h => by rw [hx h, toNat_sub_eq_emod],
    hf.trans (greaterFlag_eq _ _), hpc, hframe, rfl⟩

/-- Settles O28: as O27, with the operands exchanged. -/
theorem subtractReversedSetsGreater : Obligations.SubtractReversedSetsGreater := by
  intro x y s
  obtain ⟨t, ht, hx, hf, hpc, hframe⟩ :=
    s.resultFlag_outcome x (s.reg y - s.reg x) (greaterFlag (s.reg y) (s.reg x))
  exact ⟨decode_encode (.subn x y), t, ht, fun h => by rw [hx h, toNat_sub_eq_emod],
    hf.trans (greaterFlag_eq _ _), hpc, hframe, rfl⟩

/-- Settles O29: the outcome is a `resultFlag` of the halved byte and its bit 0; `y` is not read. -/
theorem shiftRightSetsLowBit : Obligations.ShiftRightSetsLowBit := by
  intro x y s
  obtain ⟨t, ht, hx, hf, hpc, hframe⟩ :=
    s.resultFlag_outcome x (s.reg x >>> 1) (lowBitFlag (s.reg x))
  exact ⟨decode_encode (.shr x y), t, ht, fun h => by rw [hx h, toNat_ushiftRight_one],
    by rw [hf, toNat_lowBitFlag], hpc, hframe, rfl⟩

/-- Settles O30: the outcome is a `resultFlag` of the doubled byte and its bit 7; `y` is not read. -/
theorem shiftLeftSetsHighBit : Obligations.ShiftLeftSetsHighBit := by
  intro x y s
  obtain ⟨t, ht, hx, hf, hpc, hframe⟩ :=
    s.resultFlag_outcome x (s.reg x <<< 1) (highBitFlag (s.reg x))
  exact ⟨decode_encode (.shl x y), t, ht, fun h => by rw [hx h, toNat_shiftLeft_one],
    by rw [hf, toNat_highBitFlag], hpc, hframe, rfl⟩

end Sys2Proof
end

section
/-!
SUPPORT. The frame rules of the writes of `I`, of stores from `I` and of loads into the registers.
-/
namespace Sys2Proof.Safety

open Sys2Proof.Machine

variable {s : State} {p : Elem → Prop}

theorem changesOnly_setI (a : Half) (hp : p .idx) : ChangesOnly s (s.setI a) p := by
  intro e he
  cases e with
  | idx => exact absurd hp he
  | _ => rfl

/-- A store writes as many bytes from `I` as it is given (R63, R166). -/
theorem changesOnly_storeAtI (bs : List Byte)
    (hp : ∀ k, k < bs.length → p (.byte (s.i.toNat + k))) : ChangesOnly s (s.storeAtI bs) p := by
  intro e he
  cases e with
  | byte a =>
    have outside : ¬ (s.i.toNat ≤ a ∧ a < s.i.toNat + bs.length) := by
      rintro ⟨hle, hlt⟩
      obtain ⟨k, rfl⟩ := Nat.exists_eq_add_of_le hle
      exact he (hp k (by omega))
    exact (Memory.read_store s.mem s.i.toNat a bs).trans (if_neg outside)
  | _ => rfl

/-- A fill from `V[0]` writes as many registers as it is given bytes (R165). -/
theorem changesOnly_fill (bs : List Byte) (hp : ∀ k : RegIx, k.toNat < bs.length → p (.reg k)) :
    ChangesOnly s (s.setRegs (Regs.fill s.v 0 bs)) p := by
  intro e he
  cases e with
  | reg k =>
    have outside : ¬ (0 ≤ k.toNat ∧ k.toNat < 0 + bs.length) := fun h => he (hp k (by omega))
    exact (Regs.getElem_fill s.v 0 bs k.toNat k.isLt).trans (if_neg outside)
  | _ => rfl

end Sys2Proof.Safety
end

section
/-!
SUPPORT. What the index and memory instructions answer (R160 to R166): the index values, the flag
and the decimal digits as numbers, and the outcome of a guarded store or load in each case of its
check. A check of `m + 1` bytes from `I` has `I + m` as its last address.
-/
namespace Sys2Proof.Machine

open Sys2Proof.Safety

/-! ## Values as numbers -/

/-- Five times a byte does not wrap at 16 bits (R162). -/
theorem State.toNat_glyphAddr (s : State) (x : RegIx) :
    (s.glyphAddr x).toNat = (s.reg x).toNat * 5 := by
  have := (s.reg x).isLt
  rw [State.glyphAddr, BitVec.toNat_ofNat]
  omega

theorem indexFlag_eq (sum : Nat) : indexFlag sum = if 0xFFF < sum then 1#8 else 0#8 := by
  simp [indexFlag, flagByte]

/-- The digits fit a byte, so storing them loses nothing (R163). -/
theorem toNat_decimalDigits (b : Byte) :
    (decimalDigits b).map BitVec.toNat = [b.toNat / 100, b.toNat / 10 % 10, b.toNat % 10] := by
  have := b.isLt
  simp only [decimalDigits, List.map_cons, List.map_nil, BitVec.toNat_ofNat, List.cons.injEq,
    and_true]
  omega

/-! ## Checks -/

section
variable (s : State) {m n : Nat}

theorem State.readCheck_of_le (h : s.i.toNat + m ≤ 0xFFF) : s.readCheck (m + 1) = none :=
  (s.readCheck_eq_none _).2 (.inr (by omega))

theorem State.readCheck_of_gt (h : 0xFFF < s.i.toNat + m) :
    s.readCheck (m + 1) = some ⟨.memRange, s.i.toNat + m⟩ :=
  (s.readCheck_eq_some _ _).2 ⟨⟨by omega, h⟩, rfl⟩

theorem State.writeCheck_of_le (h0 : 0x050 ≤ s.i.toNat) (h : s.i.toNat + m ≤ 0xFFF) :
    s.writeCheck (m + 1) = none :=
  (s.writeCheck_eq_none _).2 ⟨h0, .inr (by omega)⟩

theorem State.writeCheck_of_font (h : s.i.toNat ≤ 0x04F) :
    s.writeCheck n = some ⟨.fontWrite, s.i.toNat⟩ :=
  (s.writeCheck_eq_some _ _).2 (.inl ⟨h, rfl⟩)

/-- At most 16 bytes are stored, so one past 0xFFF has no byte in the font. -/
theorem State.writeCheck_of_gt (hm : m < 16) (h : 0xFFF < s.i.toNat + m) :
    s.writeCheck (m + 1) = some ⟨.memRange, s.i.toNat + m⟩ :=
  (s.writeCheck_eq_some _ _).2 (.inr ⟨by omega, s.readCheck_of_gt h⟩)

/-- A check that raises is taken and reported (R210, R221). -/
theorem State.guarded_raises {c : Option Raise} {r : Raise} (u : State) (h : c = some r) :
    s.guarded c u = .next { s with fault := r.cause.code } ∧
      reportCheck c = .fault r.cause.code (some r.info) := by
  subst h
  exact ⟨rfl, rfl⟩

end

/-! ## Stores and loads -/

section
variable (s : State) {m : Nat} {p : Elem → Prop} (hpc : p .pc)
include hpc

/-- What a store of `m + 1` bytes in range answers, its frame included (R163, R164). -/
theorem State.store_outcome {bs : List Byte} (hlen : bs.length = m + 1) (h0 : 0x050 ≤ s.i.toNat)
    (h : s.i.toNat + m ≤ 0xFFF) (hp : ∀ k, k ≤ m → p (.byte (s.i.toNat + k))) :
    ∃ t, s.guarded (s.writeCheck (m + 1)) (s.storeAtI bs).advance = .next t ∧
      (∀ k, k ≤ m → Memory.read t.mem (s.i.toNat + k) = bs.getD k 0) ∧ t.pc = s.pc + 2#16 ∧
      ChangesOnly s t p ∧ reportCheck (s.writeCheck (m + 1)) = .completed := by
  rw [s.writeCheck_of_le h0 h]
  refine ⟨(s.storeAtI bs).advance, rfl, fun k hk => ?_, rfl,
    (changesOnly_storeAtI bs fun k hk => hp k (by omega)).trans (changesOnly_advance hpc), rfl⟩
  have inside : s.i.toNat ≤ s.i.toNat + k ∧ s.i.toNat + k < s.i.toNat + bs.length := by omega
  rw [State.advance_mem, State.storeAtI_mem, Memory.read_store, if_pos inside,
    Nat.add_sub_cancel_left]

/-- What a load of `m + 1` registers in range answers, its frame included (R165). -/
theorem State.load_outcome (h : s.i.toNat + m ≤ 0xFFF)
    (hp : ∀ k : RegIx, k.toNat ≤ m → p (.reg k)) :
    ∃ t, s.guarded (s.readCheck (m + 1))
        (s.setRegs (Regs.fill s.v 0 (s.loadAtI (m + 1)))).advance = .next t ∧
      (∀ k : RegIx, k.toNat ≤ m → t.reg k = Memory.read s.mem (s.i.toNat + k.toNat)) ∧
      t.pc = s.pc + 2#16 ∧ ChangesOnly s t p ∧
      reportCheck (s.readCheck (m + 1)) = .completed := by
  have hlen : (s.loadAtI (m + 1)).length = m + 1 := Memory.length_load _ _ _
  rw [s.readCheck_of_le h]
  refine ⟨(s.setRegs (Regs.fill s.v 0 (s.loadAtI (m + 1)))).advance, rfl, fun k hk => ?_, rfl,
    (changesOnly_fill _ fun k hk => hp k (by omega)).trans (changesOnly_advance hpc), rfl⟩
  have inside : 0 ≤ k.toNat ∧ k.toNat < 0 + (s.loadAtI (m + 1)).length := by omega
  have byte : (s.loadAtI (m + 1))[k.toNat]? = some (Memory.read s.mem (s.i.toNat + k.toNat)) :=
    Memory.getElem?_load _ _ _ _ (by omega)
  calc (s.setRegs (Regs.fill s.v 0 (s.loadAtI (m + 1)))).reg k
      = (s.loadAtI (m + 1)).getD (k.toNat - 0) 0 :=
        (Regs.getElem_fill s.v 0 _ k.toNat k.isLt).trans (if_pos inside)
    _ = Memory.read s.mem (s.i.toNat + k.toNat) := by
        rw [Nat.sub_zero, List.getD_eq_getElem?_getD, byte, Option.getD_some]

end

end Sys2Proof.Machine
end

section
/-!
PROOF. The statements on the index register and memory (`42_index_memory.md`).
-/
namespace Sys2Proof

open Sys2Proof.Machine Sys2Proof.Safety

/-- Settles O34, by the three cases of the check of a three-byte store. -/
theorem storeDecimalDigits : Obligations.StoreDecimalDigits := by
  refine ⟨fun x => decode_encode (.ldBcd x), fun x s h0 h => ?_, fun x s h => ?_, fun x s h => ?_⟩
  · obtain ⟨t, ht, hread, hpc, hframe, hreport⟩ := s.store_outcome (m := 2)
      (p := fun e => e = .pc ∨ ∃ k, k < 3 ∧ e = .byte (s.i.toNat + k)) (.inl rfl)
      (bs := decimalDigits (s.reg x)) rfl h0 h fun k hk => .inr ⟨k, by omega, rfl⟩
    have digit (k : Nat) (hk : k ≤ 2) : (Memory.read t.mem (s.i.toNat + k)).toNat =
        ((decimalDigits (s.reg x)).map BitVec.toNat).getD k 0 := by
      rw [hread k hk]
      exact (List.getD_map _ (0 : Byte) BitVec.toNat).symm
    rw [toNat_decimalDigits] at digit
    exact ⟨t, ht, digit 0 (by omega), digit 1 (by omega), digit 2 (by omega), hpc, hframe, hreport⟩
  · exact s.guarded_raises _ (s.writeCheck_of_font h)
  · exact s.guarded_raises _ (s.writeCheck_of_gt (by omega) h)

/-- Settles O35, by the three cases of the check of a store of `X + 1` bytes. -/
theorem storeRegisters : Obligations.StoreRegisters := by
  refine ⟨fun x => decode_encode (.stRegs x), fun x s h0 h => ?_, fun x s h => ?_, fun x s h => ?_⟩
  · obtain ⟨t, ht, hread, hpc, hframe, hreport⟩ := s.store_outcome
      (p := fun e => e = .pc ∨ ∃ k, k ≤ x.toNat ∧ e = .byte (s.i.toNat + k)) (.inl rfl)
      (s.length_firstRegs x) h0 h fun k hk => .inr ⟨k, hk, rfl⟩
    exact ⟨t, ht, fun k hk => (hread k.toNat hk).trans (s.getD_firstRegs x k hk 0), hpc, hframe,
      hreport⟩
  · exact s.guarded_raises _ (s.writeCheck_of_font h)
  · exact s.guarded_raises _ (s.writeCheck_of_gt x.isLt h)

/-- Settles O36, by the two cases of the check of a load of `X + 1` bytes. -/
theorem loadRegisters : Obligations.LoadRegisters := by
  refine ⟨fun x => decode_encode (.ldRegs x), fun x s h => ?_, fun x s h => ?_⟩
  · exact s.load_outcome (.inl rfl) h fun k hk => .inr ⟨k, hk, rfl⟩
  · exact s.guarded_raises _ (s.readCheck_of_gt h)

/-- Settles O32: each outcome is one write of `I` and `pc + 2`. -/
theorem loadIndexAndFont : Obligations.LoadIndexAndFont := by
  intro nnn x s
  have frame (a : Half) : ChangesOnly s (s.setI a).advance (fun e => e = .idx ∨ e = .pc) :=
    (changesOnly_setI a (.inl rfl)).trans (changesOnly_advance (.inr rfl))
  exact ⟨decode_encode (.ldIdx nnn), decode_encode (.ldFont x),
    ⟨_, rfl, toNat_addrOperand nnn, rfl, frame _, rfl⟩,
    ⟨_, rfl, s.toNat_glyphAddr x, rfl, frame _, rfl⟩⟩

/-- Settles O33: the outcome writes `I`, then VF, both from the sum before the step. -/
theorem addToIndexSetsOverflow : Obligations.AddToIndexSetsOverflow := by
  intro x s
  have sum_mod : (BitVec.ofNat 16 (s.indexSum x % 4096)).toNat = s.indexSum x % 4096 := by
    rw [BitVec.toNat_ofNat]
    omega
  exact ⟨decode_encode (.addIdx x), _, rfl, sum_mod,
    (((s.setI _).reg_setVF 0xF#4 _).trans (if_pos rfl)).trans (indexFlag_eq _), rfl,
    ((changesOnly_setI _ (.inl rfl)).trans (changesOnly_setVF _ (.inr (.inl rfl)))).trans
      (changesOnly_advance (.inr (.inr rfl))), rfl⟩

end Sys2Proof
end

section
/-!
SUPPORT. The frame rules of the writes of the display and of `redraw`.
-/
namespace Sys2Proof.Safety

open Sys2Proof.Machine

variable {s : State} {p : Elem → Prop}

/-- A new display is a change of those cells only in which it differs from the old one. -/
theorem changesOnly_setDisp (d : Display)
    (hp : ∀ r c, ¬ p (.cell r c) → Display.cell d r c = Display.cell s.disp r c) :
    ChangesOnly s (s.setDisp d) p := by
  intro e he
  cases e with
  | cell r c => exact hp r c he
  | _ => rfl

theorem changesOnly_setRedraw (b : Bool) (hp : p .redraw) : ChangesOnly s (s.setRedraw b) p := by
  intro e he
  cases e with
  | redraw => exact absurd hp he
  | _ => rfl

/-- The writes of DXYN after its scan (R182). -/
theorem changesOnly_drawScan (a : Scan)
    (hd : ∀ r c, ¬ p (.cell r c) → Display.cell a.disp r c = Display.cell s.disp r c)
    (hf : p (.reg 0xF#4)) (hr : p .redraw) : ChangesOnly s (s.drawScan a) p :=
  ((changesOnly_setDisp a.disp hd).trans (changesOnly_setVF _ hf)).trans
    (changesOnly_setRedraw _ hr)

end Sys2Proof.Safety
end

section
/-!
SUPPORT. The scan of DXYN by the cells that a 1 bit of the sprite falls on (R182): what it leaves in
a cell, when it reports a collision or a change, and what DXYN answers when its check passes.
-/
namespace Sys2Proof.Machine

open Sys2Proof.Safety

variable (s : State) (x y : RegIx) (n : Nibble) (r : Fin 32) (c : Fin 64)

/-! ## The sprite bits on a cell -/

/-- At most one sprite bit falls on a cell, the one at the cell's offsets from the sprite's corner
(R182, its corner case (b)). -/
theorem spriteBitOn_iff :
    SpriteBitOn s x y n r c ↔
      (rowOff (s.reg y).toNat r < n.toNat ∧ colOff (s.reg x).toNat c < 8) ∧
        (Memory.read s.mem (s.i.toNat + rowOff (s.reg y).toNat r)).getLsbD
          (7 - colOff (s.reg x).toNat c) = true := by
  have hn : n.toNat ≤ 32 := by have := n.isLt; omega
  constructor
  · rintro ⟨j, k, hj, hk, hr, hc, hbit⟩
    obtain ⟨rfl, rfl⟩ := (offsets_iff _ _ _ r c j k hn hj hk).1 ⟨hr, hc⟩
    exact ⟨⟨hj, hk⟩, hbit⟩
  · rintro ⟨⟨hj, hk⟩, hbit⟩
    obtain ⟨hr, hc⟩ := (offsets_iff _ _ _ r c _ _ hn hj hk).2 ⟨rfl, rfl⟩
    exact ⟨_, _, hj, hk, hr, hc, hbit⟩

/-- Every 1 bit of the sprite falls on a cell, so a cell under one is found by its sprite row `j`
and column `k`. -/
theorem exists_spriteBitOn_iff (P : Fin 32 → Fin 64 → Prop) :
    (∃ r c, SpriteBitOn s x y n r c ∧ P r c) ↔
      ∃ j k, j < n.toNat ∧ k < 8 ∧
        P (Fin.ofNat 32 ((s.reg y).toNat + j)) (Fin.ofNat 64 ((s.reg x).toNat + k)) ∧
        (Memory.read s.mem (s.i.toNat + j)).getLsbD (7 - k) = true := by
  constructor
  · rintro ⟨r, c, ⟨j, k, hj, hk, hr, hc, hbit⟩, hP⟩
    obtain rfl : r = Fin.ofNat 32 _ := Fin.ext hr
    obtain rfl : c = Fin.ofNat 64 _ := Fin.ext hc
    exact ⟨j, k, hj, hk, hP, hbit⟩
  · rintro ⟨j, k, hj, hk, hP, hbit⟩
    exact ⟨_, _, ⟨j, k, hj, hk, rfl, rfl, hbit⟩, hP⟩

/-! ## The scan -/

theorem State.cell_scan_of_spriteBitOn (h : SpriteBitOn s x y n r c) :
    Display.cell (s.scan x y n).disp r c = !Display.cell s.disp r c := by
  obtain ⟨inside, hbit⟩ := (spriteBitOn_iff s x y n r c).1 h
  rw [State.cell_scan, if_pos inside, hbit, Bool.xor_true]

theorem State.cell_scan_of_not_spriteBitOn (h : ¬ SpriteBitOn s x y n r c) :
    Display.cell (s.scan x y n).disp r c = Display.cell s.disp r c := by
  rw [State.cell_scan]
  split
  next inside =>
    have off := Bool.eq_false_iff.2 fun on => h ((spriteBitOn_iff s x y n r c).2 ⟨inside, on⟩)
    rw [off, Bool.xor_false]
  next => rfl

/-- The scan reports a collision iff a sprite bit falls on a cell that was 1 before it. -/
theorem State.collision_scan :
    (s.scan x y n).collision = true ↔
      ∃ (r : Fin 32) (c : Fin 64), SpriteBitOn s x y n r c ∧ Display.cell s.disp r c = true := by
  have hn : (s.loadAtI n.toNat).length ≤ 32 := by
    have := n.isLt
    rw [State.length_loadAtI]
    omega
  have wrap (a b : Nat) : Display.cell s.disp (Fin.ofNat 32 a) (Fin.ofNat 64 b) =
      Display.cell s.disp a b := Display.cell_congr _ (Nat.mod_mod a 32) (Nat.mod_mod b 64)
  rw [exists_spriteBitOn_iff, State.scan, Scan.collision_sprite _ _ _ _ hn, State.length_loadAtI,
    or_iff_right Bool.false_ne_true]
  refine exists₂_congr fun j k => and_congr_right fun hj => ?_
  rw [State.getD_loadAtI _ _ _ hj, wrap]

/-- The scan reports a change iff some sprite bit is 1. -/
theorem State.changed_scan :
    (s.scan x y n).changed = true ↔ ∃ (r : Fin 32) (c : Fin 64), SpriteBitOn s x y n r c := by
  have cells := exists_spriteBitOn_iff s x y n fun _ _ => True
  simp only [and_true, true_and] at cells
  rw [cells, State.scan, Scan.changed_sprite, State.length_loadAtI, or_iff_right Bool.false_ne_true]
  refine exists₂_congr fun j k => and_congr_right fun hj => ?_
  rw [State.getD_loadAtI _ _ _ hj]

/-! ## Outcomes -/

/-- The check of DXYN passes when there is no sprite byte or the last one is in range. -/
theorem State.readCheck_nibble_of_le (h : n = 0#4 ∨ s.i.toNat + n.toNat - 1 ≤ 0xFFF) :
    s.readCheck n.toNat = none := by
  rw [State.readCheck_eq_none]
  rcases h with rfl | h
  · exact .inl rfl
  · omega

/-- What DXYN answers when its sprite is in range. -/
theorem exec_drw_of_le (h : n = 0#4 ∨ s.i.toNat + n.toNat - 1 ≤ 0xFFF) :
    exec (.drw x y n) s = .next (s.drawScan (s.scan x y n)).advance :=
  (s.guarded_eq_next _ _ _).2 (.inr ⟨s.readCheck_nibble_of_le n h, rfl⟩)

theorem reportInstr_drw_of_le (h : n = 0#4 ∨ s.i.toNat + n.toNat - 1 ≤ 0xFFF) :
    reportInstr (.drw x y n) s = .completed :=
  congrArg reportCheck (s.readCheck_nibble_of_le n h)

end Sys2Proof.Machine
end

section
/-!
PROOF. The statements on the display instructions (`43_display.md`).
-/
namespace Sys2Proof

open Sys2Proof.Machine Sys2Proof.Safety

/-- Settles O40, by the two cases of the check of DXYN; in range the scan says which cells flip,
when VF is 1 and when `redraw` is set. -/
theorem drawSprite : Obligations.DrawSprite := by
  refine ⟨fun x y n => decode_encode (.drw x y n), fun x y n s h => ?_, fun x y n s h1 h => ?_⟩
  · have flag : (s.drawScan (s.scan x y n)).advance.reg 0xF#4 =
        collisionFlag (s.scan x y n).collision :=
      (s.drawScan_reg (s.scan x y n) 0xF#4).trans (if_pos rfl)
    have redraw : (s.redraw || (s.scan x y n).changed) = true ↔
        s.redraw = true ∨ ∃ r c, SpriteBitOn s x y n r c := by
      rw [Bool.or_eq_true, State.changed_scan]
    refine ⟨_, exec_drw_of_le s x y n h, s.cell_scan_of_spriteBitOn x y n,
      s.cell_scan_of_not_spriteBitOn x y n, fun hit => ?_, fun miss => ?_, redraw, rfl, ?_,
      reportInstr_drw_of_le s x y n h⟩
    · rw [flag, (s.collision_scan x y n).2 hit]
      rfl
    · rw [flag, Bool.eq_false_iff.2 (mt (s.collision_scan x y n).1 miss)]
      rfl
    · exact (changesOnly_drawScan _ (fun r c hrc => absurd (.inl ⟨r, c, rfl⟩) hrc)
        (.inr (.inl rfl)) (.inr (.inr (.inl rfl)))).trans
          (changesOnly_advance (.inr (.inr (.inr rfl))))
  · exact s.guarded_raises _ ((s.readCheck_eq_some _ _).2 ⟨⟨h1, h⟩, rfl⟩)

/-- Settles O39: the outcome is the blank display, `redraw` set and `pc + 2`. -/
theorem clearDisplay : Obligations.ClearDisplay :=
  ⟨decode_encode .cls, fun _ => ⟨_, rfl, fun r c _ _ => Display.cell_blank r c, rfl, rfl,
    ((changesOnly_setDisp _ fun r c hrc => absurd (.inl ⟨r, c, rfl⟩) hrc).trans
      (changesOnly_setRedraw _ (.inr (.inl rfl)))).trans (changesOnly_advance (.inr (.inr rfl))),
    rfl⟩⟩

end Sys2Proof
end

section
/-!
SUPPORT. The frame rules of the timer writes.
-/
namespace Sys2Proof.Safety

open Sys2Proof.Machine

variable {s : State} {p : Elem → Prop}

theorem changesOnly_setDt (b : Byte) (hp : p .dt) : ChangesOnly s (s.setDt b) p := by
  intro e he
  cases e with
  | dt => exact absurd hp he
  | _ => rfl

theorem changesOnly_setSt (b : Byte) (hp : p .st) : ChangesOnly s (s.setSt b) p := by
  intro e he
  cases e with
  | st => exact absurd hp he
  | _ => rfl

end Sys2Proof.Safety
end

section
/-!
SUPPORT. What a skip on a key answers when `VX` is a key number (R191, R192).
-/
namespace Sys2Proof.Machine

open Sys2Proof.Safety

/-- What EX9E and EXA1 answer for a key number, the frame included; `c` is the condition of the
skip. -/
theorem State.keySkip_outcome (s : State) (x : RegIx) (c : Bool) (h : (s.reg x).toNat ≤ 0x0F) :
    ∃ t, s.guarded (s.keyCheck x) (s.skipIf c) = .next t ∧
      t.pc = (if c = true then s.pc + 4#16 else s.pc + 2#16) ∧
      ChangesOnly s t (fun e => e = .pc) ∧ reportCheck (s.keyCheck x) = .completed := by
  rw [(s.keyCheck_eq_none x).2 h]
  exact ⟨_, rfl, rfl, changesOnly_skipIf c rfl, rfl⟩

end Sys2Proof.Machine
end

section
/-!
PROOF. The statements on the key skips and the timers (`44_timers_keys_random.md`).
-/
namespace Sys2Proof

open Sys2Proof.Machine Sys2Proof.Safety

/-- Settles O44, by the two cases of the check of the key number. -/
theorem keySkips : Obligations.KeySkips := by
  refine ⟨fun x => ⟨decode_encode (.skp x), decode_encode (.sknp x)⟩, fun x k s hk => ?_,
    fun x s h i hi => ?_⟩
  · have inRange : (s.reg x).toNat ≤ 0x0F := by omega
    have down : s.keyDown (s.reg x).toNat = s.key[k] :=
      (congrArg s.keyDown hk).trans (s.keyDown_eq k.val k.isLt)
    constructor
    · rw [← down]
      exact s.keySkip_outcome x _ inRange
    · simp only [← down, ← Bool.not_eq_true']
      exact s.keySkip_outcome x _ inRange
  · have raised : s.keyCheck x = some ⟨.keyRange, (s.reg x).toNat⟩ :=
      (s.keyCheck_eq_some x _).2 ⟨h, rfl⟩
    obtain rfl | rfl := hi <;> exact s.guarded_raises _ raised

/-- Settles O46: each outcome is one write, of a register or of a timer, and `pc + 2`. -/
theorem timerInstructions : Obligations.TimerInstructions := by
  intro x s
  refine ⟨decode_encode (.ldGdt x), decode_encode (.ldSdt x), decode_encode (.ldSst x), ?_, ?_, ?_⟩
  · obtain ⟨t, ht, hx, hpc, hframe⟩ := s.result_outcome x s.dt
    exact ⟨t, ht, hx, hpc, hframe, rfl⟩
  · exact ⟨_, rfl, rfl, rfl,
      (changesOnly_setDt _ (.inl rfl)).trans (changesOnly_advance (.inr rfl)), rfl⟩
  · exact ⟨_, rfl, rfl, rfl,
      (changesOnly_setSt _ (.inl rfl)).trans (changesOnly_advance (.inr rfl)), rfl⟩

end Sys2Proof
end

section
/-!
SUPPORT. What a step answers and reports when it runs no instruction (R237): under a latched fault
(R222), when the fetch is out of range (R215), and on an unrecognized word (R212).
-/
namespace Sys2Proof.Machine

variable {s : State} {w : Half}

theorem step_of_latched (h : s.fault ≠ 0#3) : step s = .next s := if_pos h

theorem report_of_latched (h : s.fault ≠ 0#3) : report s = .fault s.fault none := if_pos h

theorem step_of_fetch_none (hf : s.fault = 0#3) (h : s.fetch = none) :
    step s = .next (s.raise .fetchRange) := by
  simp [step, hf, h, State.fetchFault]

theorem report_of_fetch_none (hf : s.fault = 0#3) (h : s.fetch = none) :
    report s = .fault Cause.fetchRange.code (some s.pc.toNat) := by
  simp [report, hf, h]

theorem step_of_decode_none (hf : s.fault = 0#3) (h : s.fetch = some w) (hd : decode w = none) :
    step s = .next s.advance := by
  simp [step, hf, h, hd, State.skipUnrecognized]

theorem report_of_decode_none (hf : s.fault = 0#3) (h : s.fetch = some w)
    (hd : decode w = none) : report s = .decodeError s.pc w := by
  simp [report, hf, h, hd]

/-- The fetched word is the one whose number the two bytes at `pc` form, the high byte first
(R62). -/
theorem State.fetch_of_toNat (hpc : s.pc.toNat ≤ 0xFFE)
    (h : w.toNat = (Memory.read s.mem s.pc.toNat).toNat * 256 +
      (Memory.read s.mem (s.pc.toNat + 1)).toNat) : s.fetch = some w :=
  (s.fetch_eq_some w).2 ⟨hpc, BitVec.eq_of_toNat_eq (h.trans s.toNat_wordAtPc.symm)⟩

end Sys2Proof.Machine
end

section
/-!
SUPPORT. What `Tick` does to the timers (R227) and what `Reset` does without a valid image (R252).
-/
namespace Sys2Proof.Machine

variable (s : State)

/-- One tick of a timer is a subtraction on numbers, which stops at 0. -/
theorem toNat_countDown (b : Byte) : (if b.toNat > 0 then b - 1#8 else b).toNat = b.toNat - 1 := by
  split <;> bv_omega

theorem State.toNat_tick_dt : s.tick.dt.toNat = s.dt.toNat - 1 := toNat_countDown s.dt

theorem State.toNat_tick_st : s.tick.st.toNat = s.st.toNat - 1 := toNat_countDown s.st

theorem validRom_eq_none (rom : Option (List Byte)) :
    validRom rom = none ↔ rom = none ∨ ∃ bytes, rom = some bytes ∧ 3584 < bytes.length := by
  cases rom <;> simp [validRom]

/-- An invalid image leaves what the empty one leaves, but for the latch. -/
theorem State.resetWith_of_invalid {rom : Option (List Byte)} (h : validRom rom = none) :
    s.resetWith rom = { s.resetWith (some []) with fault := Cause.romLoadFailure.code } := by
  have empty : validRom (some []) = some [] := rfl
  simp [State.resetWith, h, empty]

end Sys2Proof.Machine
end

section
/-!
PROOF. The statements on the outcomes of a step and on events (`60_exceptions.md`).
-/
namespace Sys2Proof

open Sys2Proof.Machine Sys2Proof.Safety

/-- Settles O9: the two bytes form the fetched word, and the step is one write of `pc`. -/
theorem unrecognizedWordIsSkipped : Obligations.UnrecognizedWordIsSkipped := by
  intro s w hf hpc hw hd
  have fetched : s.fetch = some w := State.fetch_of_toNat hpc hw
  exact ⟨s.advance, step_of_decode_none hf fetched hd, rfl, changesOnly_advance rfl,
    report_of_decode_none hf fetched hd⟩

/-- Settles O10: the fetch answers nothing, and the step raises `FetchRange`. -/
theorem fetchBeyondMemoryFaults : Obligations.FetchBeyondMemoryFaults := by
  intro s hf hpc
  have unfetched : s.fetch = none := s.fetch_eq_none.2 hpc
  exact ⟨step_of_fetch_none hf unfetched, report_of_fetch_none hf unfetched⟩

/-- Settles O47: both timers count down as numbers, and `Tick` writes nothing else. -/
theorem tickCountsDown : Obligations.TickCountsDown := by
  intro s
  have dt := s.toNat_tick_dt
  have st := s.toNat_tick_st
  have frame : ChangesOnly s s.tick (fun e => e = .dt ∨ e = .st) :=
    (changesOnly_setDt _ (.inl rfl)).trans (changesOnly_setSt _ (.inr rfl))
  exact ⟨s.tick, rfl, by omega, by omega, by omega, by omega, frame⟩

/-- Settles O51: the image is invalid, so `Reset` latches code 7, and a latched step only reports
it. -/
theorem resetWithoutImageLatchesFailure : Obligations.ResetWithoutImageLatchesFailure := by
  intro s rom hrom
  have state := s.resetWith_of_invalid ((validRom_eq_none rom).2 hrom)
  have code : (s.resetWith rom).fault = 7#3 := congrArg State.fault state
  have latched : (s.resetWith rom).fault ≠ 0#3 := by simp [code]
  exact ⟨s.resetWith rom, s.resetWith (some []), rfl, rfl, state, step_of_latched latched,
    code ▸ report_of_latched latched⟩

end Sys2Proof
end

section
/-!
SUPPORT. The decoder read backwards (R94): a word is packed from its own fields, so a recognized
word is the word of the instruction it decodes to.
-/
namespace Sys2Proof

variable (w : Half)

/-! ## A word from its fields (R91, R92) -/

theorem packXY_fields : packXY (opOf w) (xOf w) (yOf w) (nOf w) = w := by
  apply BitVec.eq_of_toNat_eq
  rw [toNat_packXY, toNat_opOf, toNat_xOf, toNat_yOf, toNat_nOf]
  omega

theorem packXI_fields : packXI (opOf w) (xOf w) (nnOf w) = w := by
  apply BitVec.eq_of_toNat_eq
  rw [toNat_packXI, toNat_opOf, toNat_xOf, toNat_nnOf]
  omega

theorem packA_fields : packA (opOf w) (nnnOf w) = w := by
  apply BitVec.eq_of_toNat_eq
  rw [toNat_packA, toNat_opOf, toNat_nnnOf]
  omega

section
variable {w} {op n : Nibble} {nn : Byte} {i : Instr}

theorem packXY_of_fields (hop : opOf w = op) (hn : nOf w = n) :
    packXY op (xOf w) (yOf w) n = w := hop ▸ hn ▸ packXY_fields w

theorem packXI_of_fields (hop : opOf w = op) (hnn : nnOf w = nn) : packXI op (xOf w) nn = w :=
  hop ▸ hnn ▸ packXI_fields w

theorem packA_of_fields (hop : opOf w = op) : packA op (nnnOf w) = w := hop ▸ packA_fields w

/-! ## The families whose low bits select -/

theorem encode_of_decode0 (h : decode0 w = some i) : encode i = w := by
  unfold decode0 at h
  split_ifs at h with h1 h2 <;> cases h
  · exact h1.symm
  · exact h2.symm

theorem encode_of_decodeXY0 {f : RegIx → RegIx → Instr}
    (hf : ∀ x y, encode (f x y) = packXY op x y 0x0#4) (hop : opOf w = op)
    (h : decodeXY0 w f = some i) : encode i = w := by
  unfold decodeXY0 at h
  split_ifs at h with hn
  cases h
  exact (hf _ _).trans (packXY_of_fields hop hn)

theorem encode_of_decode8 (hop : opOf w = 0x8#4) (h : decode8 w = some i) : encode i = w := by
  unfold decode8 at h
  split at h <;> cases h <;> exact packXY_of_fields hop (BitVec.eq_of_toNat_eq ‹_›)

theorem encode_of_decodeE (hop : opOf w = 0xE#4) (h : decodeE w = some i) : encode i = w := by
  unfold decodeE at h
  split_ifs at h <;> cases h <;> exact packXI_of_fields hop ‹_›

theorem encode_of_decodeF (hop : opOf w = 0xF#4) (h : decodeF w = some i) : encode i = w := by
  unfold decodeF at h
  split_ifs at h <;> cases h <;> exact packXI_of_fields hop ‹_›

/-! ## The whole decoder -/

theorem encode_of_decode (h : decode w = some i) : encode i = w := by
  unfold decode at h
  have hlt := (opOf w).isLt
  -- the cases come in the order of the families, 0 to F
  split at h <;> rename_i hop
  case h_1 => exact encode_of_decode0 h
  case h_6 => exact encode_of_decodeXY0 (fun _ _ => rfl) (BitVec.eq_of_toNat_eq (y := 0x5#4) hop) h
  case h_9 => exact encode_of_decode8 (BitVec.eq_of_toNat_eq hop) h
  case h_10 => exact encode_of_decodeXY0 (fun _ _ => rfl) (BitVec.eq_of_toNat_eq (y := 0x9#4) hop) h
  case h_15 => exact encode_of_decodeE (BitVec.eq_of_toNat_eq hop) h
  case h_16 =>
    have hF : (opOf w).toNat = 0xF := by grind
    exact encode_of_decodeF (BitVec.eq_of_toNat_eq hF) h
  case h_2 | h_3 | h_11 | h_12 =>
    cases h
    exact packA_of_fields (BitVec.eq_of_toNat_eq hop)
  case h_14 =>
    cases h
    exact packXY_of_fields (BitVec.eq_of_toNat_eq hop) rfl
  all_goals
    cases h
    exact packXI_of_fields (BitVec.eq_of_toNat_eq hop) rfl

end
end Sys2Proof
end

section
/-!
SUPPORT. The unrecognized words of each family (R95).
-/
namespace Sys2Proof

/-- A chain of tests answers nothing when all of them fail. -/
theorem ite_some_eq_none {α : Type} (c : Prop) [Decidable c] (a : α) (o : Option α) :
    (if c then some a else o) = none ↔ ¬ c ∧ o = none := by
  split_ifs with h <;> simp [h]

variable (w : Half)

theorem decode0_eq_none : decode0 w = none ↔ w.toNat ≠ 0x00E0 ∧ w.toNat ≠ 0x00EE := by
  have h1 : w = 0x00E0#16 ↔ w.toNat = 0x00E0 := BitVec.toNat_inj.symm
  have h2 : w = 0x00EE#16 ↔ w.toNat = 0x00EE := BitVec.toNat_inj.symm
  simp [decode0, ite_some_eq_none, h1, h2]

theorem decodeXY0_eq_none (f : RegIx → RegIx → Instr) :
    decodeXY0 w f = none ↔ w.toNat % 16 ≠ 0 := by
  have h : nOf w = 0x0#4 ↔ w.toNat % 16 = 0 := toNat_nOf w ▸ BitVec.toNat_inj.symm
  simp [decodeXY0, h]

theorem decode8_eq_none :
    decode8 w = none ↔ w.toNat % 16 ∈ [0x8, 0x9, 0xA, 0xB, 0xC, 0xD, 0xF] := by
  have hlt : w.toNat % 16 < 16 := Nat.mod_lt _ (by decide)
  unfold decode8
  rw [toNat_nOf]
  generalize w.toNat % 16 = n at hlt
  interval_cases n <;> simp

theorem nnOf_eq_iff (nn : Byte) : nnOf w = nn ↔ w.toNat % 256 = nn.toNat :=
  toNat_nnOf w ▸ BitVec.toNat_inj.symm

theorem decodeE_eq_none : decodeE w = none ↔ w.toNat % 256 ∉ [0x9E, 0xA1] := by
  simp [decodeE, ite_some_eq_none, nnOf_eq_iff]

theorem decodeF_eq_none :
    decodeF w = none ↔
      w.toNat % 256 ∉ [0x07, 0x0A, 0x15, 0x18, 0x1E, 0x29, 0x33, 0x55, 0x65] := by
  simp [decodeF, ite_some_eq_none, nnOf_eq_iff]

end Sys2Proof
end

section
/-!
SUPPORT. The decoder against the mask and match table (R94): the mnemonic depends only on the bits a
row's mask keeps, and the word of an instruction is selected by the row of its mnemonic.
-/
namespace Sys2Proof

variable {w v : Half}

/-! ## What equal masked words share -/

theorem opOf_eq_of_mask_op (h : w &&& 0xF000#16 = v) : opOf w = opOf v := by
  rw [← h, mask_op, opOf_packA]

theorem opOf_eq_of_mask_opN (h : w &&& 0xF00F#16 = v) : opOf w = opOf v ∧ nOf w = nOf v := by
  rw [← h, mask_opN, opOf_packXY, nOf_packXY]
  exact ⟨rfl, rfl⟩

theorem opOf_eq_of_mask_opNN (h : w &&& 0xF0FF#16 = v) : opOf w = opOf v ∧ nnOf w = nnOf v := by
  rw [← h, mask_opNN, opOf_packXI, nnOf_packXI]
  exact ⟨rfl, rfl⟩

/-! ## What the mnemonic depends on -/

/-- In ten families the leading nibble alone selects the instruction. -/
theorem mnemonic_congr_op (h : opOf w = opOf v)
    (hop : (opOf v).toNat ∈ [0x1, 0x2, 0x3, 0x4, 0x6, 0x7, 0xA, 0xB, 0xC, 0xD]) :
    (decode w).map Instr.mnemonic = (decode v).map Instr.mnemonic := by
  unfold decode
  rw [h]
  generalize (opOf v).toNat = op at hop
  fin_cases hop <;> rfl

theorem mnemonic_decodeXY0_congr {f : RegIx → RegIx → Instr} {m : String}
    (hf : ∀ x y, (f x y).mnemonic = m) (hn : nOf w = nOf v) :
    (decodeXY0 w f).map Instr.mnemonic = (decodeXY0 v f).map Instr.mnemonic := by
  unfold decodeXY0
  rw [hn]
  split_ifs
  · simp only [Option.map_some, hf]
  · rfl

theorem mnemonic_decode8_congr (hn : nOf w = nOf v) :
    (decode8 w).map Instr.mnemonic = (decode8 v).map Instr.mnemonic := by
  unfold decode8
  rw [hn]
  split <;> rfl

/-- In families 5, 8 and 9 the leading and the low nibble select it. -/
theorem mnemonic_congr_opN (h : opOf w = opOf v) (hn : nOf w = nOf v)
    (hop : (opOf v).toNat ∈ [0x5, 0x8, 0x9]) :
    (decode w).map Instr.mnemonic = (decode v).map Instr.mnemonic := by
  unfold decode
  rw [h]
  generalize (opOf v).toNat = op at hop
  fin_cases hop
  · exact mnemonic_decodeXY0_congr (fun _ _ => rfl) hn
  · exact mnemonic_decode8_congr hn
  · exact mnemonic_decodeXY0_congr (fun _ _ => rfl) hn

theorem mnemonic_decodeE_congr (hnn : nnOf w = nnOf v) :
    (decodeE w).map Instr.mnemonic = (decodeE v).map Instr.mnemonic := by
  unfold decodeE
  rw [hnn]
  split_ifs <;> rfl

theorem mnemonic_decodeF_congr (hnn : nnOf w = nnOf v) :
    (decodeF w).map Instr.mnemonic = (decodeF v).map Instr.mnemonic := by
  unfold decodeF
  rw [hnn]
  split_ifs <;> rfl

/-- In families E and F the leading nibble and the low byte select it. -/
theorem mnemonic_congr_opNN (h : opOf w = opOf v) (hnn : nnOf w = nnOf v)
    (hop : (opOf v).toNat ∈ [0xE, 0xF]) :
    (decode w).map Instr.mnemonic = (decode v).map Instr.mnemonic := by
  unfold decode
  rw [h]
  generalize (opOf v).toNat = op at hop
  fin_cases hop
  · exact mnemonic_decodeE_congr hnn
  · exact mnemonic_decodeF_congr hnn

/-! ## The rows -/

/-- The match value of a row is itself a word of the row, and its mask is that of its family. -/
def OpRow.Regular (r : OpRow) : Prop :=
  (decode r.value).map Instr.mnemonic = some r.mnemonic ∧
  (r.mask = 0xFFFF#16 ∨
    (r.mask = 0xF000#16 ∧
      (opOf r.value).toNat ∈ [0x1, 0x2, 0x3, 0x4, 0x6, 0x7, 0xA, 0xB, 0xC, 0xD]) ∨
    (r.mask = 0xF00F#16 ∧ (opOf r.value).toNat ∈ [0x5, 0x8, 0x9]) ∨
    (r.mask = 0xF0FF#16 ∧ (opOf r.value).toNat ∈ [0xE, 0xF]))

theorem regular_of_mem_opcodeTable : ∀ r ∈ opcodeTable, r.Regular := by
  unfold OpRow.Regular
  decide

/-- A word that a regular row selects decodes to an instruction of the row. -/
theorem OpRow.Regular.mnemonic_of_selects {r : OpRow} (hr : r.Regular)
    (h : w &&& r.mask = r.value) : (decode w).map Instr.mnemonic = some r.mnemonic := by
  obtain ⟨hvalue, hmask | ⟨hmask, hop⟩ | ⟨hmask, hop⟩ | ⟨hmask, hop⟩⟩ := hr <;>
    rw [hmask] at h <;> rw [← hvalue]
  · rw [mask_all] at h
    rw [h]
  · exact mnemonic_congr_op (opOf_eq_of_mask_op h) hop
  · obtain ⟨h1, h2⟩ := opOf_eq_of_mask_opN h
    exact mnemonic_congr_opN h1 h2 hop
  · obtain ⟨h1, h2⟩ := opOf_eq_of_mask_opNN h
    exact mnemonic_congr_opNN h1 h2 hop

/-- No two rows of the table carry one mnemonic. -/
theorem opcodeTable_mnemonic_nodup : (opcodeTable.map OpRow.mnemonic).Nodup := by
  decide

/-- The word of every instruction is selected by the row of its mnemonic. -/
theorem rowSelects_encode (i : Instr) : Laws.OpcodeRow.Statement i := by
  cases i with
  | cls => exact Laws.OpcodeRow.cls
  | ret => exact Laws.OpcodeRow.ret
  | jp nnn => exact Laws.OpcodeRow.jp nnn
  | call nnn => exact Laws.OpcodeRow.call nnn
  | seI x nn => exact Laws.OpcodeRow.seI x nn
  | sneI x nn => exact Laws.OpcodeRow.sneI x nn
  | seR x y => exact Laws.OpcodeRow.seR x y
  | ldI x nn => exact Laws.OpcodeRow.ldI x nn
  | addI x nn => exact Laws.OpcodeRow.addI x nn
  | ldR x y => exact Laws.OpcodeRow.ldR x y
  | orR x y => exact Laws.OpcodeRow.orR x y
  | andR x y => exact Laws.OpcodeRow.andR x y
  | xorR x y => exact Laws.OpcodeRow.xorR x y
  | addR x y => exact Laws.OpcodeRow.addR x y
  | sub x y => exact Laws.OpcodeRow.sub x y
  | shr x y => exact Laws.OpcodeRow.shr x y
  | subn x y => exact Laws.OpcodeRow.subn x y
  | shl x y => exact Laws.OpcodeRow.shl x y
  | sneR x y => exact Laws.OpcodeRow.sneR x y
  | ldIdx nnn => exact Laws.OpcodeRow.ldIdx nnn
  | jpV0 nnn => exact Laws.OpcodeRow.jpV0 nnn
  | rnd x nn => exact Laws.OpcodeRow.rnd x nn
  | drw x y n => exact Laws.OpcodeRow.drw x y n
  | skp x => exact Laws.OpcodeRow.skp x
  | sknp x => exact Laws.OpcodeRow.sknp x
  | ldGdt x => exact Laws.OpcodeRow.ldGdt x
  | ldKey x => exact Laws.OpcodeRow.ldKey x
  | ldSdt x => exact Laws.OpcodeRow.ldSdt x
  | ldSst x => exact Laws.OpcodeRow.ldSst x
  | addIdx x => exact Laws.OpcodeRow.addIdx x
  | ldFont x => exact Laws.OpcodeRow.ldFont x
  | ldBcd x => exact Laws.OpcodeRow.ldBcd x
  | stRegs x => exact Laws.OpcodeRow.stRegs x
  | ldRegs x => exact Laws.OpcodeRow.ldRegs x

/-- Every recognized word is selected by some row. -/
theorem exists_row_of_decode {i : Instr} (h : decode w = some i) :
    ∃ r ∈ opcodeTable, w &&& r.mask = r.value := by
  obtain ⟨r, hr, hsel⟩ := List.any_eq_true.1 (rowSelects_encode i)
  rw [Bool.and_eq_true, encode_of_decode h] at hsel
  obtain ⟨-, selects⟩ := hsel
  exact ⟨r, hr, eq_of_beq selects⟩

end Sys2Proof
end

section
/-!
PROOF. The statements on the decoder and the encoder (`30_encoding.md`).
-/
namespace Sys2Proof

/-- Settles O1, by the lemma on each instruction's word. -/
theorem decodeInvertsEncode : Obligations.DecodeInvertsEncode := decode_encode

/-- Settles O2: the fields of a recognized word are packed where they were read. -/
theorem encodeInvertsDecode : Obligations.EncodeInvertsDecode := fun _ _ => encode_of_decode

/-- Settles O3: a selecting row names the mnemonic, so two of them have one mnemonic and are one
row; and every recognized word is selected by the row of its instruction. -/
theorem decoderFollowsOpcodeTable : Obligations.DecoderFollowsOpcodeTable := by
  intro w
  have named : ∀ r ∈ opcodeTable, w &&& r.mask = r.value →
      (decode w).map Instr.mnemonic = some r.mnemonic :=
    fun r hr => (regular_of_mem_opcodeTable r hr).mnemonic_of_selects
  refine ⟨named, fun unselected => ?_, fun r hr q hq hrw hqw => ?_⟩
  · by_contra recognized
    obtain ⟨i, hi⟩ := Option.ne_none_iff_exists'.1 recognized
    obtain ⟨r, hr, hrw⟩ := exists_row_of_decode hi
    exact unselected r hr hrw
  · have same : r.mnemonic = q.mnemonic :=
      Option.some.inj ((named r hr hrw).symm.trans (named q hq hqw))
    exact List.inj_on_of_nodup_map opcodeTable_mnemonic_nodup hr hq same

/-- Settles O4, family by family. -/
theorem unrecognizedWordsByFamily : Obligations.UnrecognizedWordsByFamily := by
  intro w
  have hlt : w.toNat / 4096 < 16 := by omega
  unfold decode
  rw [toNat_opOf]
  generalize w.toNat / 4096 = op at hlt
  interval_cases op <;>
    simp only [decode0_eq_none, decodeXY0_eq_none, decode8_eq_none, decodeE_eq_none,
      decodeF_eq_none] <;> simp

/-- Settles O5, by decoding each of the words. -/
theorem sampleWordsDecode : Obligations.SampleWordsDecode := by
  unfold Obligations.SampleWordsDecode
  decide

end Sys2Proof
end

section
/-!
SUPPORT. The assembler's forms (R97): when each accepts its operands, and that it takes a field's
value back to the field.
-/
namespace Sys2Proof.Machine

/-! ## A numeral for a field -/

@[simp] theorem isSome_fitting (width n : Nat) :
    (fitting width n).isSome = decide (n < 2 ^ width) := by
  unfold fitting
  split <;> simp [*]

@[simp] theorem fitting_toNat {width : Nat} (b : BitVec width) :
    fitting width b.toNat = some b := by
  rw [fitting, if_pos b.isLt, BitVec.ofNat_toNat, BitVec.setWidth_eq]

/-! ## The operand patterns -/

section
variable (x y nn nnn : Nat)

@[simp] theorem isSome_asmX (f : RegIx → Instr) : (asmX x f).isSome = decide (x < 16) := by
  simp [asmX]

@[simp] theorem isSome_asmXY (f : RegIx → RegIx → Instr) :
    (asmXY x y f).isSome = (decide (x < 16) && decide (y < 16)) := by
  change _ = (decide (x < 2 ^ 4) && decide (y < 2 ^ 4))
  rw [← isSome_fitting, ← isSome_fitting, asmXY]
  cases fitting 4 x <;> simp

@[simp] theorem isSome_asmXI (f : RegIx → Byte → Instr) :
    (asmXI x nn f).isSome = (decide (x < 16) && decide (nn < 256)) := by
  change _ = (decide (x < 2 ^ 4) && decide (nn < 2 ^ 8))
  rw [← isSome_fitting, ← isSome_fitting, asmXI]
  cases fitting 4 x <;> simp

@[simp] theorem isSome_asmA (f : Addr → Instr) : (asmA nnn f).isSome = decide (nnn < 4096) := by
  simp [asmA]

end

section
variable (x y : RegIx) (nn : Byte) (nnn : Addr)

@[simp] theorem asmX_toNat (f : RegIx → Instr) : asmX x.toNat f = some (f x) := by
  simp [asmX]

@[simp] theorem asmXY_toNat (f : RegIx → RegIx → Instr) :
    asmXY x.toNat y.toNat f = some (f x y) := by
  simp [asmXY]

@[simp] theorem asmXI_toNat (f : RegIx → Byte → Instr) :
    asmXI x.toNat nn.toNat f = some (f x nn) := by
  simp [asmXI]

@[simp] theorem asmA_toNat (f : Addr → Instr) : asmA nnn.toNat f = some (f nnn) := by
  simp [asmA]

end

/-! ## What a form takes -/

section
variable {a : AsmOperand} {args : List AsmOperand}

@[simp] theorem accepts_reg_iff : OperandShape.reg.accepts a = true ↔ ∃ r, r < 16 ∧ a = .reg r := by
  cases a <;> simp [OperandShape.accepts]

@[simp] theorem accepts_regZero_iff : OperandShape.regZero.accepts a = true ↔ a = .reg 0 := by
  cases a <;> simp [OperandShape.accepts]

@[simp] theorem accepts_imm4_iff :
    OperandShape.imm4.accepts a = true ↔ ∃ n, n < 16 ∧ a = .num n := by
  cases a <;> simp [OperandShape.accepts]

@[simp] theorem accepts_imm8_iff :
    OperandShape.imm8.accepts a = true ↔ ∃ n, n < 256 ∧ a = .num n := by
  cases a <;> simp [OperandShape.accepts]

@[simp] theorem accepts_imm12_iff :
    OperandShape.imm12.accepts a = true ↔ ∃ n, n < 4096 ∧ a = .num n := by
  cases a <;> simp [OperandShape.accepts]

@[simp] theorem accepts_name_iff (o : AsmOperand) :
    (OperandShape.name o).accepts a = true ↔ a = o := by
  cases o <;> simp [OperandShape.accepts, eq_comm]

@[simp] theorem fitsForm_nil_iff : fitsForm [] args = true ↔ args = [] := by
  cases args <;> simp [fitsForm]

@[simp] theorem fitsForm_cons_iff (f : OperandShape) (fs : List OperandShape) :
    fitsForm (f :: fs) args = true ↔
      ∃ a as, args = a :: as ∧ f.accepts a = true ∧ fitsForm fs as = true := by
  cases args <;> simp [fitsForm]

end

/-! ## The operand shapes of each word: a line is assembled iff a form takes its operands -/

section
variable (args : List AsmOperand)

theorem isSome_asmNone (i : Instr) :
    (asmNone i args).isSome = true ↔ fitsForm [] args = true := by
  rw [fitsForm_nil_iff]
  unfold asmNone
  split <;> simp_all

theorem isSome_asmOne (f : RegIx → Instr) :
    (asmOne f args).isSome = true ↔ fitsForm [.reg] args = true := by
  unfold asmOne
  split <;> simp_all

theorem isSome_asmPair (f : RegIx → RegIx → Instr) :
    (asmPair f args).isSome = true ↔ fitsForm [.reg, .reg] args = true := by
  unfold asmPair
  split <;> simp_all

theorem isSome_asmShift (f : RegIx → RegIx → Instr) :
    (asmShift f args).isSome = true ↔
      fitsForm [.reg] args = true ∨ fitsForm [.reg, .reg] args = true := by
  unfold asmShift
  split <;> simp_all

theorem isSome_asmSkip (fi : RegIx → Byte → Instr) (fr : RegIx → RegIx → Instr) :
    (asmSkip fi fr args).isSome = true ↔
      fitsForm [.reg, .imm8] args = true ∨ fitsForm [.reg, .reg] args = true := by
  unfold asmSkip
  split <;> simp_all

theorem isSome_asmRnd : (asmRnd args).isSome = true ↔ fitsForm [.reg, .imm8] args = true := by
  unfold asmRnd
  split <;> simp_all

theorem isSome_asmCall : (asmCall args).isSome = true ↔ fitsForm [.imm12] args = true := by
  unfold asmCall
  split <;> simp_all

theorem isSome_asmJp :
    (asmJp args).isSome = true ↔
      fitsForm [.imm12] args = true ∨ fitsForm [.regZero, .imm12] args = true := by
  unfold asmJp
  split <;> simp_all
  split <;> simp_all

theorem isSome_asmDrw :
    (asmDrw args).isSome = true ↔ fitsForm [.reg, .reg, .imm4] args = true := by
  unfold asmDrw
  split
  next x y n =>
    have fit : ((fitting 4 x).bind fun x => (fitting 4 y).bind fun y =>
        (fitting 4 n).map fun n => Instr.drw x y n).isSome = true ↔ x < 16 ∧ y < 16 ∧ n < 16 := by
      by_cases hx : x < 16 <;> by_cases hy : y < 16 <;> simp [fitting, hx, hy]
    rw [fit]
    simp
  next => simp_all

theorem isSome_asmAdd :
    (asmAdd args).isSome = true ↔ fitsForm [.reg, .imm8] args = true ∨
      fitsForm [.reg, .reg] args = true ∨ fitsForm [.name .idx, .reg] args = true := by
  unfold asmAdd
  split <;> simp_all

theorem isSome_asmLd :
    (asmLd args).isSome = true ↔ ∃ f ∈ AsmWord.ld.forms, fitsForm f args = true := by
  simp only [AsmWord.forms, List.mem_cons, List.not_mem_nil, or_false, exists_eq_or_imp,
    fitsForm_cons_iff, accepts_reg_iff, accepts_imm8_iff, fitsForm_nil_iff, exists_eq_right_right,
    ↓existsAndEq, and_true, true_and, accepts_name_iff, accepts_imm12_iff, exists_eq_right]
  unfold asmLd
  split <;> simp_all

end

end Sys2Proof.Machine
end

section
/-!
PROOF. The statements on the assembler (`30_encoding.md`).
-/
namespace Sys2Proof

open Sys2Proof.Machine

/-- Settles O6, word by word: the lemma on the word's operand shapes. -/
theorem assemblerAcceptsWellFormedLines : Obligations.AssemblerAcceptsWellFormedLines := by
  rintro ⟨word, args⟩
  rw [Bool.eq_iff_iff, AsmLine.wellFormed, List.any_eq_true]
  cases word with
  | cls | ret => simp [assemble, AsmWord.forms, isSome_asmNone]
  | jp => simp [assemble, AsmWord.forms, isSome_asmJp]
  | call => simp [assemble, AsmWord.forms, isSome_asmCall]
  | se | sne => simp [assemble, AsmWord.forms, isSome_asmSkip]
  | ld => exact isSome_asmLd args
  | add => simp [assemble, AsmWord.forms, isSome_asmAdd]
  | or | and | xor | sub | subn => simp [assemble, AsmWord.forms, isSome_asmPair]
  | shr | shl => simp [assemble, AsmWord.forms, isSome_asmShift]
  | rnd => simp [assemble, AsmWord.forms, isSome_asmRnd]
  | drw => simp [assemble, AsmWord.forms, isSome_asmDrw]
  | skp | sknp => simp [assemble, AsmWord.forms, isSome_asmOne]

/-- Settles O7: a field's value is written as a numeral that fits the field. -/
theorem assembleInvertsDisassemble : Obligations.AssembleInvertsDisassemble := by
  intro i
  cases i with
  | cls | ret => rfl
  | jp nnn | call nnn | ldIdx nnn => exact asmA_toNat nnn _
  | jpV0 nnn => exact asmA_toNat nnn _
  | seI x nn | sneI x nn | ldI x nn | addI x nn | rnd x nn => exact asmXI_toNat x nn _
  | seR x y | sneR x y | ldR x y | orR x y | andR x y | xorR x y | addR x y | sub x y | shr x y
  | subn x y | shl x y => exact asmXY_toNat x y _
  | drw x y n => simp [disassemble, assemble, asmDrw]
  | skp x | sknp x | ldGdt x | ldKey x | ldSdt x | ldSst x | addIdx x | ldFont x | ldBcd x
  | stRegs x | ldRegs x => exact asmX_toNat x _

end Sys2Proof
end

section
/-!
SUPPORT. Every instruction is a check, and an effect when the check passes (R221: all checks precede
all writes). `checkOf` and `effectOf` name the two for each instruction; `exec_eq_next` and
`reportInstr_cases` tie them to the model, so that a claim about every instruction is a case
analysis on `effectOf`.
-/
namespace Sys2Proof.Machine

/-- The check that precedes the writes of an instruction (R211). -/
def checkOf : Instr → State → Option Raise
  | .ret, s => s.retCheck
  | .call _, s => s.callCheck
  | .drw _ _ n, s => s.readCheck n.toNat
  | .skp x, s => s.keyCheck x
  | .sknp x, s => s.keyCheck x
  | .ldBcd _, s => s.writeCheck 3
  | .stRegs x, s => s.writeCheck (regCount x)
  | .ldRegs x, s => s.readCheck (regCount x)
  | _, _ => none

/-- FX0A: nothing while no key is pressed, else some pressed key's number (R194). -/
def State.loadKey (s : State) (x : RegIx) : State :=
  match s.pressed with
  | [] => s
  | k :: ks => ((s.setReg x (BitVec.ofNat 8 (s.drawKey k ks))).drawn).advance

/-- The state an instruction leaves when its check passes. -/
def effectOf : Instr → State → State
  | .cls, s => ((s.setDisp Display.blank).setRedraw true).advance
  | .ret, s => s.pop.setPc s.top
  | .jp nnn, s => s.setPc (addrOperand nnn)
  | .call nnn, s => (s.push (s.pc + 2#16)).setPc (addrOperand nnn)
  | .seI x nn, s => s.skipIf (s.reg x == nn)
  | .sneI x nn, s => s.skipIf (s.reg x != nn)
  | .seR x y, s => s.skipIf (s.reg x == s.reg y)
  | .ldI x nn, s => (s.setReg x nn).advance
  | .addI x nn, s => (s.setReg x (s.reg x + nn)).advance
  | .ldR x y, s => (s.setReg x (s.reg y)).advance
  | .orR x y, s => (s.setReg x (s.reg x ||| s.reg y)).advance
  | .andR x y, s => (s.setReg x (s.reg x &&& s.reg y)).advance
  | .xorR x y, s => (s.setReg x (s.reg x ^^^ s.reg y)).advance
  | .addR x y, s =>
    ((s.setReg x (s.reg x + s.reg y)).setVF (carryFlag (s.reg x) (s.reg y))).advance
  | .sub x y, s =>
    ((s.setReg x (s.reg x - s.reg y)).setVF (greaterFlag (s.reg x) (s.reg y))).advance
  | .shr x _, s => ((s.setReg x (s.reg x >>> 1)).setVF (lowBitFlag (s.reg x))).advance
  | .subn x y, s =>
    ((s.setReg x (s.reg y - s.reg x)).setVF (greaterFlag (s.reg y) (s.reg x))).advance
  | .shl x _, s => ((s.setReg x (s.reg x <<< 1)).setVF (highBitFlag (s.reg x))).advance
  | .sneR x y, s => s.skipIf (s.reg x != s.reg y)
  | .ldIdx nnn, s => (s.setI (addrOperand nnn)).advance
  | .jpV0 nnn, s => s.setPc (s.indexedTarget nnn)
  | .rnd x nn, s => ((s.setReg x (s.drawRnd &&& nn)).drawn).advance
  | .drw x y n, s => (s.drawScan (s.scan x y n)).advance
  | .skp x, s => s.skipIf (s.keyDown (s.reg x).toNat)
  | .sknp x, s => s.skipIf (!s.keyDown (s.reg x).toNat)
  | .ldGdt x, s => (s.setReg x s.dt).advance
  | .ldKey x, s => s.loadKey x
  | .ldSdt x, s => (s.setDt (s.reg x)).advance
  | .ldSst x, s => (s.setSt (s.reg x)).advance
  | .addIdx x, s =>
    ((s.setI (BitVec.ofNat 16 (s.indexSum x % 4096))).setVF (indexFlag (s.indexSum x))).advance
  | .ldFont x, s => (s.setI (s.glyphAddr x)).advance
  | .ldBcd x, s => (s.storeAtI (decimalDigits (s.reg x))).advance
  | .stRegs x, s => (s.storeAtI (s.firstRegs x)).advance
  | .ldRegs x, s => (s.setRegs (Regs.fill s.v 0 (s.loadAtI (regCount x)))).advance

/-- The two instructions that test the stack pointer first (R39; log entry 8). -/
def usesStack : Instr → Bool
  | .ret => true
  | .call _ => true
  | _ => false

variable {i : Instr} {s t : State}

/-! ## FX0A by its two cases -/

theorem State.loadKey_of_none (x : RegIx) (h : s.pressed = []) : s.loadKey x = s := by
  rw [State.loadKey, h]

theorem State.loadKey_of_some (x : RegIx) {k : Nat} {ks : List Nat} (h : s.pressed = k :: ks) :
    s.loadKey x = ((s.setReg x (BitVec.ofNat 8 (s.drawKey k ks))).drawn).advance := by
  rw [State.loadKey, h]

theorem execLdKey_eq (x : RegIx) : execLdKey x s = .next (s.loadKey x) := by
  unfold execLdKey
  split
  next h => rw [State.loadKey_of_none x h]
  next h => rw [State.loadKey_of_some x h]

/-- No key is pressed iff every flag of the latch is 0 (R30, R194). -/
theorem State.pressed_eq_nil : s.pressed = [] ↔ ∀ k : Fin 16, s.key[k] = false := by
  have down (k : Fin 16) : k.val ∈ s.pressed ↔ s.key[k] = true := by
    rw [State.mem_pressed, s.keyDown_eq k k.isLt]
    exact and_iff_right k.isLt
  rw [List.eq_nil_iff_forall_not_mem]
  constructor
  · exact fun h k => Bool.eq_false_iff.2 fun hk => h k ((down k).2 hk)
  · intro h k hk
    have hlt : k < 16 := ((s.mem_pressed k).1 hk).1
    have pressed : s.key[(⟨k, hlt⟩ : Fin 16)] = true := (down ⟨k, hlt⟩).1 hk
    exact Bool.false_ne_true ((h ⟨k, hlt⟩).symm.trans pressed)

/-! ## The outcome of an instruction -/

/-- An instruction is its check and its effect, past the stack pointer test where it has one. -/
theorem exec_eq (i : Instr) (s : State) :
    exec i s = if usesStack i then s.withLegalSp (s.guarded (checkOf i s) (effectOf i s))
      else s.guarded (checkOf i s) (effectOf i s) := by
  cases i with
  | ldKey x => exact execLdKey_eq x
  | _ => rfl

theorem exec_of_legalSp (i : Instr) (h : s.sp.toNat ≤ 16) :
    exec i s = s.guarded (checkOf i s) (effectOf i s) := by
  rw [exec_eq, State.withLegalSp, if_pos h, ite_self]

/-- When an instruction answers a next state. -/
theorem exec_eq_next : exec i s = .next t ↔
    (usesStack i = true → s.sp.toNat ≤ 16) ∧ s.guarded (checkOf i s) (effectOf i s) = .next t := by
  rw [exec_eq]
  split
  next h => simp [h, State.withLegalSp_eq_next]
  next h => simp [h]

/-- An instruction that answers a next state takes the fault of its check, or has its effect. -/
theorem exec_cases (h : exec i s = .next t) :
    (∃ r, checkOf i s = some r ∧ t = s.raise r.cause) ∨ (checkOf i s = none ∧ t = effectOf i s) :=
  (s.guarded_eq_next t _ _).1 (exec_eq_next.1 h).2

/-! ## The report of an instruction -/

theorem reportInstr_cases (i : Instr) (s : State) :
    ((∃ x, i = .ldKey x) ∧ s.pressed = [] ∧ reportInstr i s = .waiting) ∨
      ((∀ x, i = .ldKey x → s.pressed ≠ []) ∧ reportInstr i s = reportCheck (checkOf i s)) := by
  cases i with
  | ldKey x =>
    by_cases h : s.pressed = []
    · exact .inl ⟨⟨x, rfl⟩, h, if_pos h⟩
    · exact .inr ⟨fun _ _ => h, if_neg h⟩
  | _ => exact .inr ⟨by simp, rfl⟩

theorem reportInstr_eq_waiting :
    reportInstr i s = .waiting ↔ (∃ x, i = .ldKey x) ∧ s.pressed = [] := by
  obtain ⟨hi, hp, hw⟩ | ⟨hne, hr⟩ := reportInstr_cases i s
  · exact iff_of_true hw ⟨hi, hp⟩
  · refine iff_of_false (fun h => ?_) (fun ⟨⟨x, hi⟩, hp⟩ => hne x hi hp)
    cases hc : checkOf i s <;> simp [hr, hc, reportCheck] at h

theorem reportInstr_eq_completed :
    reportInstr i s = .completed ↔ checkOf i s = none ∧ ∀ x, i = .ldKey x → s.pressed ≠ [] := by
  obtain ⟨⟨x, hi⟩, hp, hw⟩ | ⟨hne, hr⟩ := reportInstr_cases i s
  · exact iff_of_false (by simp [hw]) fun h => h.2 x hi hp
  · rw [hr, and_iff_left hne]
    cases checkOf i s <;> simp [reportCheck]

theorem reportInstr_eq_fault {c : BitVec 3} {info : Option Nat} :
    reportInstr i s = .fault c info ↔
      ∃ r, checkOf i s = some r ∧ c = r.cause.code ∧ info = some r.info := by
  obtain ⟨⟨x, rfl⟩, -, hw⟩ | ⟨-, hr⟩ := reportInstr_cases i s
  · simp [hw, checkOf]
  · rw [hr]
    cases checkOf i s <;> simp [reportCheck, eq_comm]

theorem reportInstr_ne_decodeError (a w : Half) : reportInstr i s ≠ .decodeError a w := by
  obtain ⟨-, -, hw⟩ | ⟨-, hr⟩ := reportInstr_cases i s
  · simp [hw]
  · rw [hr]
    cases checkOf i s <;> simp [reportCheck]

/-! ## The outcome and the report of a step -/

theorem step_of_decode_some {w : Half} (hf : s.fault = 0#3) (h : s.fetch = some w)
    (hd : decode w = some i) : step s = exec i s := by
  simp [step, hf, h, hd]

theorem report_of_decode_some {w : Half} (hf : s.fault = 0#3) (h : s.fetch = some w)
    (hd : decode w = some i) : report s = reportInstr i s := by
  simp [report, hf, h, hd]

/-- What a step answers together with what it reports, all its cases (R237). -/
theorem step_report_cases (s : State) :
    (s.fault ≠ 0#3 ∧ step s = .next s ∧ report s = .fault s.fault none) ∨
    (s.fault = 0#3 ∧ s.fetch = none ∧ step s = .next (s.raise .fetchRange) ∧
      report s = .fault Cause.fetchRange.code (some s.pc.toNat)) ∨
    (s.fault = 0#3 ∧ ∃ w, s.fetch = some w ∧ decode w = none ∧ step s = .next s.advance ∧
      report s = .decodeError s.pc w) ∨
    (s.fault = 0#3 ∧ ∃ w i, s.fetch = some w ∧ decode w = some i ∧ step s = exec i s ∧
      report s = reportInstr i s) := by
  by_cases hf : s.fault = 0#3
  · cases h : s.fetch with
    | none =>
      exact .inr (.inl ⟨hf, rfl, step_of_fetch_none hf h, report_of_fetch_none hf h⟩)
    | some w =>
      cases hd : decode w with
      | none =>
        exact .inr (.inr (.inl
          ⟨hf, w, rfl, hd, step_of_decode_none hf h hd, report_of_decode_none hf h hd⟩))
      | some i =>
        exact .inr (.inr (.inr
          ⟨hf, w, i, rfl, hd, step_of_decode_some hf h hd, report_of_decode_some hf h hd⟩))
  · exact .inl ⟨hf, step_of_latched hf, report_of_latched hf⟩

/-- The states a step can leave: the same one, one with a fault taken, one past an unrecognized
word, or the effect of an instruction whose check passes. -/
theorem step_effect_cases (h : step s = .next t) :
    t = s ∨ (∃ c, t = s.raise c) ∨ (s.pc.toNat ≤ 0xFFE ∧ t = s.advance) ∨
      (s.pc.toNat ≤ 0xFFE ∧ ∃ i, checkOf i s = none ∧ t = effectOf i s) := by
  obtain ⟨-, ht⟩ | ⟨-, -, ht⟩ | ⟨-, hpc, -, ht⟩ | ⟨-, hpc, i, -, hexec⟩ := step_cases s t h
  · exact .inl ht
  · exact .inr (.inl ⟨_, ht⟩)
  · exact .inr (.inr (.inl ⟨hpc, ht⟩))
  · obtain ⟨r, -, ht⟩ | passed := exec_cases hexec
    · exact .inr (.inl ⟨_, ht⟩)
    · exact .inr (.inr (.inr ⟨hpc, i, passed⟩))

end Sys2Proof.Machine
end

section
/-!
SUPPORT. The frame of every instruction (R38): its effect changes only what its row of the access
table gives it.
-/
namespace Sys2Proof.Safety

open Sys2Proof.Machine

/-! ## Frame rules of the remaining updates -/

section
variable {s : State} {p : Elem → Prop}

theorem changesOnly_drawn (hp : p .draws) : ChangesOnly s s.drawn p := by
  intro e he
  cases e with
  | draws => exact absurd hp he
  | _ => rfl

/-- A push writes no entry but the one at `SP`, where there is one. -/
theorem changesOnly_push_at (a : Half) (hp : ∀ k : Fin 16, k.val = s.sp.toNat → p (.stack k))
    (hp' : p .sp) : ChangesOnly s (s.push a) p := by
  intro e he
  cases e with
  | sp => exact absurd hp' he
  | stack j => exact (s.push_stack_getElem a j.val j.isLt).trans (if_neg fun h => he (hp j h))
  | _ => rfl

/-- A write of a register, then `pc + 2`. -/
theorem changesOnly_result (x : RegIx) (b : Byte) (hx : p (.reg x)) (hpc : p .pc) :
    ChangesOnly s (s.setReg x b).advance p :=
  (changesOnly_setReg x b hx).trans (changesOnly_advance hpc)

/-- A write of a register, of VF, then `pc + 2`. -/
theorem changesOnly_resultFlag (x : RegIx) (b f : Byte) (hx : p (.reg x)) (hf : p (.reg 0xF#4))
    (hpc : p .pc) : ChangesOnly s ((s.setReg x b).setVF f).advance p :=
  ((changesOnly_setReg x b hx).trans (changesOnly_setVF f hf)).trans (changesOnly_advance hpc)

/-- A write of a register from a draw, then `pc + 2`. -/
theorem changesOnly_drawnResult (x : RegIx) (b : Byte) (hx : p (.reg x)) (hd : p .draws)
    (hpc : p .pc) : ChangesOnly s ((s.setReg x b).drawn).advance p :=
  ((changesOnly_setReg x b hx).trans (changesOnly_drawn hd)).trans (changesOnly_advance hpc)

theorem changesOnly_refl : ChangesOnly s s p := by
  intro e _
  cases e <;> rfl

theorem changesOnly_loadKey (x : RegIx) (hx : p (.reg x)) (hd : p .draws) (hpc : p .pc) :
    ChangesOnly s (s.loadKey x) p := by
  cases h : s.pressed with
  | nil => exact (State.loadKey_of_none x h).symm ▸ changesOnly_refl
  | cons k ks => exact (State.loadKey_of_some x h).symm ▸ changesOnly_drawnResult x _ hx hd hpc

end

/-! ## The frame of an effect -/

theorem mayWrite_pc (i : Instr) (s : State) : MayWrite i s .pc := .inl rfl

theorem mayWrite_cell_of_spriteBitOn {s : State} {x y : RegIx} {n : Nibble} {r : Fin 32}
    {c : Fin 64} (h : SpriteBitOn s x y n r c) : MayWrite (.drw x y n) s (.cell r c) := by
  obtain ⟨j, k, hj, hk, hr, hc, -⟩ := h
  exact .inr (.inr (.inr ⟨r, c, j, k, rfl, hj, hk, hr, hc⟩))

theorem changesOnly_effectOf (i : Instr) (s : State) :
    ChangesOnly s (effectOf i s) (MayWrite i s) := by
  have hpc := mayWrite_pc i s
  cases i with
  | cls =>
    exact ((changesOnly_setDisp _ fun r c h => absurd (.inr (.inl ⟨r, c, rfl⟩)) h).trans
      (changesOnly_setRedraw _ (.inr (.inr rfl)))).trans (changesOnly_advance hpc)
  | ret => exact (changesOnly_pop (.inr rfl)).trans (changesOnly_setPc _ hpc)
  | call nnn =>
    exact (changesOnly_push_at _ (fun k hk => .inr (.inr ⟨k, rfl, hk⟩)) (.inr (.inl rfl))).trans
      (changesOnly_setPc _ hpc)
  | jp | jpV0 => exact changesOnly_setPc _ hpc
  | seI | sneI | seR | sneR | skp | sknp => exact changesOnly_skipIf _ hpc
  | ldI | addI | ldR | orR | andR | xorR | ldGdt => exact changesOnly_result _ _ (.inr rfl) hpc
  | addR | sub | shr | subn | shl =>
    exact changesOnly_resultFlag _ _ _ (.inr (.inl rfl)) (.inr (.inr rfl)) hpc
  | ldIdx | ldFont => exact (changesOnly_setI _ (.inr rfl)).trans (changesOnly_advance hpc)
  | addIdx =>
    exact ((changesOnly_setI _ (.inr (.inl rfl))).trans
      (changesOnly_setVF _ (.inr (.inr rfl)))).trans (changesOnly_advance hpc)
  | rnd => exact changesOnly_drawnResult _ _ (.inr (.inl rfl)) (.inr (.inr rfl)) hpc
  | ldKey x => exact changesOnly_loadKey x (.inr (.inl rfl)) (.inr (.inr rfl)) hpc
  | drw x y n =>
    exact (changesOnly_drawScan _
      (fun r c h => s.cell_scan_of_not_spriteBitOn x y n r c fun on =>
        h (mayWrite_cell_of_spriteBitOn on))
      (.inr (.inl rfl)) (.inr (.inr (.inl rfl)))).trans (changesOnly_advance hpc)
  | ldSdt => exact (changesOnly_setDt _ (.inr rfl)).trans (changesOnly_advance hpc)
  | ldSst => exact (changesOnly_setSt _ (.inr rfl)).trans (changesOnly_advance hpc)
  | ldBcd =>
    exact (changesOnly_storeAtI _ fun k hk => .inr ⟨k, hk, rfl⟩).trans (changesOnly_advance hpc)
  | stRegs x =>
    have hlen := s.length_firstRegs x
    exact (changesOnly_storeAtI _ fun k hk => .inr ⟨k, by omega, rfl⟩).trans
      (changesOnly_advance hpc)
  | ldRegs x =>
    have hlen : (s.loadAtI (regCount x)).length = x.toNat + 1 := s.length_loadAtI _
    exact (changesOnly_fill _ fun k hk => .inr ⟨k, by omega, rfl⟩).trans (changesOnly_advance hpc)

end Sys2Proof.Safety
end

section
/-!
PROOF. The statements on the outcomes of a step (`60_exceptions.md`) and on what each instruction
may write (`10_state.md`).
-/
namespace Sys2Proof

open Sys2Proof.Machine Sys2Proof.Safety

/-- Settles O57: the frame of the effect of every instruction. -/
theorem frameOfEveryInstruction : Obligations.FrameOfEveryInstruction := by
  intro i s t h
  obtain ⟨r, -, rfl⟩ | ⟨-, rfl⟩ := exec_cases h
  · exact .inl ⟨r.cause, rfl⟩
  · exact .inr (changesOnly_effectOf i s)

/-- Settles O8: the two bytes form the fetched word, which decodes to the instruction. -/
theorem stepRunsDecodedInstruction : Obligations.StepRunsDecodedInstruction := by
  intro s w i hf hpc hw hd
  have fetched : s.fetch = some w := State.fetch_of_toNat hpc hw
  exact ⟨step_of_decode_some hf fetched hd, report_of_decode_some hf fetched hd⟩

/-- Settles O11: the latch is tested first, and the events other than `Step` and `Reset` do not
write it. -/
theorem latchedFaultFreezesTheCore : Obligations.LatchedFaultFreezesTheCore := by
  intro s hf
  refine ⟨step_of_latched hf, report_of_latched hf, fun e t he h => ?_⟩
  cases e with
  | step =>
    cases (step_of_latched hf).symm.trans h
    rfl
  | reset rom => exact absurd rfl (he rom)
  | tick | keyWrite | redrawAck | displayRead | soundObserve =>
    cases h
    rfl

/-- The effect of an instruction does not write the latch. -/
theorem effectOf_fault (i : Instr) (s : State) : (effectOf i s).fault = s.fault :=
  changesOnly_effectOf i s .fault (by cases i <;> simp [MayWrite])

/-- Settles O12: the latch is written only by a raise, which writes nothing else. -/
theorem faultsArePrecise : Obligations.FaultsArePrecise := by
  intro s t hf h ht
  obtain rfl | ⟨c, rfl⟩ | ⟨-, rfl⟩ | ⟨-, i, -, rfl⟩ := step_effect_cases h
  · exact absurd hf ht
  · rfl
  · exact absurd hf ht
  · exact absurd ((effectOf_fault i s).trans hf) ht

/-- What an instruction answers and reports, together (R210, R237). -/
theorem exec_report_agree (i : Instr) {s : State} (hf : s.fault = 0#3) (hsp : s.sp.toNat ≤ 16) :
    ∃ t, exec i s = .next t ∧
      (reportInstr i s = .completed → t.fault = 0#3) ∧
      (reportInstr i s = .waiting → t = s) ∧
      (∀ c info, reportInstr i s = .fault c info →
        c ≠ 0#3 ∧ info.isSome = true ∧ t = { s with fault := c }) := by
  rw [exec_of_legalSp i hsp]
  cases hc : checkOf i s with
  | some r =>
    refine ⟨s.raise r.cause, rfl, fun hr => ?_, fun hr => ?_, fun c info hr => ?_⟩
    · simp [(reportInstr_eq_completed.1 hr).1] at hc
    · obtain ⟨⟨x, rfl⟩, -⟩ := reportInstr_eq_waiting.1 hr
      cases hc
    · obtain ⟨r', hr', rfl, rfl⟩ := reportInstr_eq_fault.1 hr
      cases hc.symm.trans hr'
      exact ⟨r.cause.code_ne_zero, rfl, rfl⟩
  | none =>
    refine ⟨effectOf i s, rfl, fun _ => (effectOf_fault i s).trans hf, fun hr => ?_,
      fun c info hr => ?_⟩
    · obtain ⟨⟨x, rfl⟩, hp⟩ := reportInstr_eq_waiting.1 hr
      exact State.loadKey_of_none x hp
    · obtain ⟨r, hr', -⟩ := reportInstr_eq_fault.1 hr
      cases hc.symm.trans hr'

/-- Settles O13, by the cases of a step; the last is `exec_report_agree`. -/
theorem reportMatchesNextState : Obligations.ReportMatchesNextState := by
  intro s hf hsp
  obtain ⟨hne, -⟩ | ⟨-, -, hs, hr⟩ | ⟨-, w, -, -, hs, hr⟩ | ⟨-, w, i, -, -, hs, hr⟩ :=
    step_report_cases s
  · exact absurd hf hne
  · refine ⟨_, hs, by simp [hr], by simp [hr], by simp [hr], fun c info h => ?_⟩
    rw [hr] at h
    cases h
    exact ⟨Cause.code_ne_zero _, rfl, rfl⟩
  · refine ⟨_, hs, by simp [hr], by simp [hr], fun a w' h => ?_, by simp [hr]⟩
    rw [hr] at h
    cases h
    exact ⟨rfl, rfl⟩
  · obtain ⟨t, ht, hcompleted, hwaiting, hfault⟩ := exec_report_agree i hf hsp
    rw [hs, hr]
    exact ⟨t, ht, hcompleted, hwaiting, fun a w h => absurd h (reportInstr_ne_decodeError a w),
      hfault⟩

/-- Settles O14: of the outcomes of a step only that of an instruction can be `Waiting`, and then
the instruction is FX0A with no key pressed, which has no effect. -/
theorem onlyKeyWaitWaits : Obligations.OnlyKeyWaitWaits := by
  intro s
  rw [← State.pressed_eq_nil]
  constructor
  · intro h
    obtain ⟨-, -, hr⟩ | ⟨-, -, -, hr⟩ | ⟨-, w, -, -, -, hr⟩ | ⟨hf, w, i, hw, hd, hs, hr⟩ :=
      step_report_cases s
    · cases hr.symm.trans h
    · cases hr.symm.trans h
    · cases hr.symm.trans h
    · obtain ⟨⟨x, rfl⟩, hp⟩ := reportInstr_eq_waiting.1 (hr.symm.trans h)
      obtain ⟨hpc, rfl⟩ := (s.fetch_eq_some w).1 hw
      exact ⟨hf, hpc, ⟨x, hd⟩, hp,
        hs.trans ((execLdKey_eq x).trans (congrArg _ (State.loadKey_of_none x hp)))⟩
  · rintro ⟨hf, hpc, ⟨x, hd⟩, hp, -⟩
    exact (report_of_decode_some hf ((s.fetch_eq_some _).2 ⟨hpc, rfl⟩) hd).trans
      (reportInstr_eq_waiting.2 ⟨⟨x, rfl⟩, hp⟩)

/-- A store check reports the font first, then the last address (R66). -/
theorem exists_writeCheck (s : State) (m : Nat) (P : Raise → Prop) :
    (∃ r, s.writeCheck (m + 1) = some r ∧ P r) ↔
      (s.i.toNat ≤ 0x04F ∧ P ⟨.fontWrite, s.i.toNat⟩) ∨
      (0x04F < s.i.toNat ∧ 0xFFF < s.i.toNat + m ∧ P ⟨.memRange, s.i.toNat + m⟩) := by
  simp [State.writeCheck_eq_some, State.readCheck_eq_some, or_and_right, exists_or, and_assoc]

/-- Settles O15: an instruction reports the fault its check raises, and each check raises as its
lemma says. -/
theorem faultCausesOfInstructions : Obligations.FaultCausesOfInstructions := by
  intro i s c info
  rw [reportInstr_eq_fault]
  cases i with
  | ret | call | drw | ldRegs | skp | sknp | ldBcd | stRegs =>
    simp only [checkOf, regCount, State.retCheck_eq_some, State.callCheck_eq_some,
      State.readCheck_eq_some, State.keyCheck_eq_some, exists_writeCheck]
    simp [Cause.code]
    tauto
  | _ => simp [checkOf]

/-- Settles O22: of the effects, only those of the listed instructions and a waiting FX0A leave
another `pc`. -/
theorem otherInstructionsAdvanceByTwo : Obligations.OtherInstructionsAdvanceByTwo := by
  intro i s t h hr hi
  obtain ⟨passed, pressed⟩ := reportInstr_eq_completed.1 hr
  obtain ⟨r, raised, -⟩ | ⟨-, rfl⟩ := exec_cases h
  · cases passed.symm.trans raised
  cases i with
  | ret | jp | call | seI | sneI | seR | sneR | jpV0 | skp | sknp =>
    exact absurd hi (by simp [Instr.mnemonic])
  | ldKey x =>
    obtain ⟨k, ks, hp⟩ := List.exists_cons_of_ne_nil (pressed x rfl)
    exact congrArg State.pc (State.loadKey_of_some x hp)
  | _ => rfl

/-- Settles O31: VF is outside the write set of every other instruction. -/
theorem onlySevenInstructionsWriteTheFlag : Obligations.OnlySevenInstructionsWriteTheFlag := by
  intro i s t h hne
  have written : MayWrite i s (.reg 0xF#4) := by
    obtain ⟨r, -, rfl⟩ | ⟨-, rfl⟩ := exec_cases h
    · exact absurd rfl hne
    · by_contra outside
      exact hne (changesOnly_effectOf i s (.reg 0xF#4) outside)
  cases i with
  | ldRegs x =>
    obtain ⟨k, hk, hF⟩ := written.resolve_left (by simp)
    cases hF
    change 15 ≤ x.toNat at hk
    have last : x = 0xF#4 := by bv_omega
    simp [last]
  | _ => simp_all [MayWrite, Instr.mnemonic]

/-- Only DXYN draws and only 00E0 clears; both leave `redraw` set when a cell changed. -/
theorem redraw_of_effectOf_cell_ne (i : Instr) (s : State) (r : Fin 32) (c : Fin 64)
    (h : Display.cell (effectOf i s).disp r c ≠ Display.cell s.disp r c) :
    (effectOf i s).redraw = true := by
  have written : MayWrite i s (.cell r c) := by
    by_contra outside
    exact h (changesOnly_effectOf i s (.cell r c) outside)
  cases i with
  | cls => rfl
  | drw x y n =>
    have on : SpriteBitOn s x y n r c := by
      by_contra off
      exact h (s.cell_scan_of_not_spriteBitOn x y n r c off)
    exact Bool.or_eq_true_iff.2 (.inr ((s.changed_scan x y n).2 ⟨r, c, on⟩))
  | _ => simp [MayWrite] at written

theorem effectOf_redraw (i : Instr) (s : State) (h : s.redraw = true) :
    (effectOf i s).redraw = true := by
  by_cases written : MayWrite i s .redraw
  · cases i with
    | cls => rfl
    | drw x y n => exact Bool.or_eq_true_iff.2 (.inl h)
    | _ => simp [MayWrite] at written
  · exact Eq.trans (changesOnly_effectOf i s .redraw written) h

/-- Settles O42: a step without the effect of an instruction writes neither the display nor
`redraw`. -/
theorem redrawFollowsDisplayChanges : Obligations.RedrawFollowsDisplayChanges := by
  intro s t h
  obtain rfl | ⟨c, rfl⟩ | ⟨-, rfl⟩ | ⟨-, i, -, rfl⟩ := step_effect_cases h
  · exact ⟨fun ⟨r, c, hrc⟩ => absurd rfl hrc, id⟩
  · exact ⟨fun ⟨r, c, hrc⟩ => absurd rfl hrc, id⟩
  · exact ⟨fun ⟨r, c, hrc⟩ => absurd rfl hrc, id⟩
  · exact ⟨fun ⟨r, c, hrc⟩ => redraw_of_effectOf_cell_ne i s r c hrc, effectOf_redraw i s⟩

end Sys2Proof
end

section
/-!
PROOF. The statements on two instructions in a row: a call and its return, a store and a load or a
fetch, the same sprite drawn twice.
-/
namespace Sys2Proof

open Sys2Proof.Machine Sys2Proof.Safety

/-- Settles O23: the call writes the entry that the return pops. -/
theorem returnResumesAfterCall : Obligations.ReturnResumesAfterCall := by
  intro nnn s t u hsp h hstack hu
  have hlt : s.sp.toNat < 16 := by omega
  cases (exec_call_of_lt s nnn hlt).symm.trans h
  have count : u.sp.toNat = s.sp.toNat + 1 :=
    (congrArg BitVec.toNat hu).trans (s.toNat_push_sp (s.pc + 2#16) hlt)
  have entry : u.stack[s.sp.toNat] = s.pc + 2#16 := by
    simp only [hstack]
    exact (s.push_stack_getElem _ _ hlt).trans (if_pos rfl)
  exact ⟨_, exec_ret_of_pos u (by omega) (by omega), (u.top_eq _ hlt count).trans entry,
    BitVec.eq_of_toNat_eq (u.toNat_pop_sp _ count)⟩

/-- The bytes that FX55 leaves in memory when its check passes. -/
theorem read_of_exec_stRegs {x : RegIx} {s t : State} (h0 : 0x050 ≤ s.i.toNat)
    (hx : s.i.toNat + x.toNat ≤ 0xFFF) (h : exec (.stRegs x) s = .next t) (k : RegIx)
    (hk : k.toNat ≤ x.toNat) : Memory.read t.mem (s.i.toNat + k.toNat) = s.reg k := by
  obtain ⟨-, inRange, -, -⟩ := storeRegisters
  obtain ⟨t', ht', hread, -⟩ := inRange x s h0 hx
  cases ht'.symm.trans h
  exact hread k hk

/-- Settles O37: the load reads the bytes that the store left. -/
theorem loadRestoresStoredRegisters : Obligations.LoadRestoresStoredRegisters := by
  intro x s t u h0 hx h hmem hi
  obtain ⟨-, inRange, -⟩ := loadRegisters
  obtain ⟨r, hr, hload, -⟩ := inRange x u (by rwa [hi])
  refine ⟨r, hr, fun k hk => ?_⟩
  rw [hload k hk, hmem, hi]
  exact read_of_exec_stRegs h0 hx h k hk

/-- Settles O38: the fetch reads the two bytes that the store left. -/
theorem storeIsSeenByFetch : Obligations.StoreIsSeenByFetch := by
  intro x k j s t u h0 hx h hmem hj hjx hpc
  refine ⟨u.wordAtPc, (u.fetch_eq_some _).2 ⟨by omega, rfl⟩, ?_⟩
  have next : u.pc.toNat + 1 = s.i.toNat + j.toNat := by omega
  rw [State.toNat_wordAtPc, next, hpc, hmem, read_of_exec_stRegs h0 hx h k (by omega),
    read_of_exec_stRegs h0 hx h j hjx]

/-- A draw does not move its sprite: `I`, memory and the registers but VF are as before. -/
theorem spriteBitOn_drawScan {x y : RegIx} (hx : x ≠ 0xF#4) (hy : y ≠ 0xF#4) (n : Nibble)
    (s : State) (a : Scan) (r : Fin 32) (c : Fin 64) :
    SpriteBitOn (s.drawScan a).advance x y n r c ↔ SpriteBitOn s x y n r c := by
  simp [SpriteBitOn, hx, hy]

theorem collisionFlag_eq_one (b : Bool) : collisionFlag b = 1#8 ↔ b = true := by
  cases b <;> decide

/-- Settles O41: each of the two draws flips the cells under the same sprite bits, so the second
restores them and collides where the first lit a cell. -/
theorem drawTwiceRestoresDisplay : Obligations.DrawTwiceRestoresDisplay := by
  intro x y n s hx hy h
  generalize ht : (s.drawScan (s.scan x y n)).advance = t
  have hdisp : t.disp = (s.scan x y n).disp := ht ▸ rfl
  have hi : t.i = s.i := ht ▸ rfl
  have on (r c) : SpriteBitOn t x y n r c ↔ SpriteBitOn s x y n r c :=
    ht ▸ spriteBitOn_drawScan hx hy n s _ r c
  refine ⟨t, _, ht ▸ exec_drw_of_le s x y n h, exec_drw_of_le t x y n (hi ▸ h), ?_, ?_⟩
  · refine Display.ext_cells _ _ fun r c hr hc => ?_
    change Display.cell (t.scan x y n).disp (⟨r, hr⟩ : Fin 32) (⟨c, hc⟩ : Fin 64) =
      Display.cell s.disp (⟨r, hr⟩ : Fin 32) (⟨c, hc⟩ : Fin 64)
    by_cases bit : SpriteBitOn s x y n ⟨r, hr⟩ ⟨c, hc⟩
    · rw [t.cell_scan_of_spriteBitOn x y n _ _ ((on _ _).2 bit), hdisp,
        s.cell_scan_of_spriteBitOn x y n _ _ bit, Bool.not_not]
    · rw [t.cell_scan_of_not_spriteBitOn x y n _ _ (mt (on _ _).1 bit), hdisp,
        s.cell_scan_of_not_spriteBitOn x y n _ _ bit]
  · have flag : (t.drawScan (t.scan x y n)).advance.reg 0xF#4 =
        collisionFlag (t.scan x y n).collision :=
      (t.drawScan_reg (t.scan x y n) 0xF#4).trans (if_pos rfl)
    rw [flag, collisionFlag_eq_one, t.collision_scan]
    refine exists₂_congr fun r c => (and_congr_left' (on r c)).trans (and_congr_right fun bit => ?_)
    rw [hdisp, s.cell_scan_of_spriteBitOn x y n r c bit, Bool.not_eq_true']

end Sys2Proof
end

section
/-!
SUPPORT. The invariant (R37, and the canonical form of memory), kept by every event.
-/
namespace Sys2Proof.Safety

open Sys2Proof.Machine

variable {s t : State}

/-! ## The effect of an instruction on `I`, `SP` and memory -/

theorem effectOf_i_le (i : Instr) (h : s.i.toNat ≤ 0xFFF) : (effectOf i s).i.toNat ≤ 0xFFF := by
  by_cases written : MayWrite i s .idx
  · cases i with
    | ldIdx nnn =>
      have := nnn.isLt
      change (addrOperand nnn).toNat ≤ 0xFFF
      rw [toNat_addrOperand]
      omega
    | ldFont x =>
      have := (s.reg x).isLt
      change (s.glyphAddr x).toNat ≤ 0xFFF
      rw [State.toNat_glyphAddr]
      omega
    | addIdx x =>
      change (BitVec.ofNat 16 (s.indexSum x % 4096)).toNat ≤ 0xFFF
      rw [BitVec.toNat_ofNat]
      omega
    | _ => simp [MayWrite] at written
  · have same : (effectOf i s).i = s.i := changesOnly_effectOf i s .idx written
    rwa [same]

theorem effectOf_sp_le (i : Instr) (hc : checkOf i s = none) (h : s.sp.toNat ≤ 16) :
    (effectOf i s).sp.toNat ≤ 16 := by
  by_cases written : MayWrite i s .sp
  · cases i with
    | ret =>
      have h0 : s.sp.toNat ≠ 0 := s.retCheck_eq_none.1 hc
      change s.pop.sp.toNat ≤ 16
      rw [s.toNat_pop_sp (s.sp.toNat - 1) (by omega)]
      omega
    | call nnn =>
      have h16 : s.sp.toNat ≠ 16 := s.callCheck_eq_none.1 hc
      change (s.push (s.pc + 2#16)).sp.toNat ≤ 16
      rw [s.toNat_push_sp _ (by omega)]
      omega
    | _ => simp [MayWrite] at written
  · have same : (effectOf i s).sp = s.sp := changesOnly_effectOf i s .sp written
    rwa [same]

theorem loadKey_mem (x : RegIx) : (s.loadKey x).mem = s.mem := by
  cases hp : s.pressed with
  | nil => rw [State.loadKey_of_none x hp]
  | cons k ks =>
    rw [State.loadKey_of_some x hp]
    rfl

/-- Memory after an effect: as before, or as a checked store from `I` leaves it. -/
theorem effectOf_mem (i : Instr) (hc : checkOf i s = none) :
    (effectOf i s).mem = s.mem ∨ ∃ bs, 0x04F < s.i.toNat ∧ s.i.toNat + bs.length ≤ 0x1000 ∧
      (effectOf i s).mem = Memory.store s.mem s.i.toNat bs := by
  cases i with
  | ldBcd x =>
    obtain ⟨font, range⟩ := (s.writeCheck_eq_none 3).1 hc
    exact .inr ⟨decimalDigits (s.reg x), font, range.resolve_left (by decide), rfl⟩
  | stRegs x =>
    obtain ⟨font, range⟩ := (s.writeCheck_eq_none (regCount x)).1 hc
    have hlen : (s.firstRegs x).length = regCount x := s.length_firstRegs x
    exact .inr ⟨s.firstRegs x, font, hlen ▸ range.resolve_left (Nat.succ_ne_zero _), rfl⟩
  | ldKey x => exact .inl (loadKey_mem x)
  | _ => exact .inl rfl

theorem inv_effectOf (i : Instr) (hc : checkOf i s = none) (h : Inv s) : Inv (effectOf i s) := by
  obtain ⟨hi, hsp, hwf, hfont⟩ := h
  refine ⟨effectOf_i_le i hi, effectOf_sp_le i hc hsp, ?_⟩
  obtain hmem | ⟨bs, font, range, hmem⟩ := effectOf_mem i hc <;> rw [hmem]
  · exact ⟨hwf, hfont⟩
  · exact ⟨Memory.wf_store s.mem _ bs hwf range, Memory.fontIntact_store s.mem _ bs hfont font⟩

/-! ## Steps, events, schedules -/

theorem inv_step (h : Inv s) (hs : step s = .next t) : Inv t := by
  obtain rfl | ⟨c, rfl⟩ | ⟨-, rfl⟩ | ⟨-, i, hc, rfl⟩ := step_effect_cases hs
  · exact h
  · exact h
  · exact h
  · exact inv_effectOf i hc h

/-- A step answers a next state in every state with a legal stack pointer. -/
theorem exists_step (h : s.sp.toNat ≤ 16) : ∃ t, step s = .next t := by
  obtain ⟨-, hs, -⟩ | ⟨-, -, hs, -⟩ | ⟨-, w, -, -, hs, -⟩ | ⟨-, w, i, -, -, hs, -⟩ :=
    step_report_cases s
  · exact ⟨_, hs⟩
  · exact ⟨_, hs⟩
  · exact ⟨_, hs⟩
  · rw [hs, exec_of_legalSp i h]
    cases checkOf i s with
    | none => exact ⟨_, rfl⟩
    | some r => exact ⟨_, rfl⟩

theorem length_validRom_le (rom : Option (List Byte)) : ((validRom rom).getD []).length ≤ 3584 := by
  cases rom with
  | none => simp [validRom]
  | some bytes =>
    by_cases h : bytes.length ≤ 3584 <;> simp [validRom, h]

theorem inv_resetWith (s : State) (rom : Option (List Byte)) : Inv (s.resetWith rom) := by
  have hlen := length_validRom_le rom
  exact ⟨Nat.zero_le 0xFFF, Nat.zero_le 16, Memory.wf_store [] 0x200 _ rfl (by omega),
    Memory.fontIntact_store [] 0x200 _ rfl (by decide)⟩

theorem inv_reset : Inv State.reset := ⟨by decide, by decide, rfl, rfl⟩

/-- Every event has a next state and keeps the invariant. -/
theorem exists_applyEvent_inv (e : Event) (h : Inv s) : ∃ t, applyEvent e s = .next t ∧ Inv t := by
  cases e with
  | step =>
    have ⟨_, hsp, _⟩ := h
    obtain ⟨t, ht⟩ := exists_step hsp
    exact ⟨t, ht, inv_step h ht⟩
  | reset rom => exact ⟨_, rfl, inv_resetWith s rom⟩
  | tick | keyWrite | redrawAck | displayRead | soundObserve => exact ⟨_, rfl, h⟩

/-- So does every schedule. -/
theorem exists_runEvents_inv (es : List Event) (h : Inv s) :
    ∃ t, runEvents es s = .next t ∧ Inv t := by
  induction es generalizing s with
  | nil => exact ⟨s, rfl, h⟩
  | cons e es ih =>
    obtain ⟨u, hu, hinv⟩ := exists_applyEvent_inv e h
    simp only [runEvents, hu]
    exact ih hinv

end Sys2Proof.Safety
end

section
/-!
PROOF. The statements on the invariant (`10_state.md`) and on schedules (`60_exceptions.md`).
-/
namespace Sys2Proof

open Sys2Proof.Machine Sys2Proof.Safety

/-- Settles O54: the effect of every instruction keeps the invariant. -/
theorem stepKeepsInvariant : Obligations.StepKeepsInvariant := fun _ _ => inv_step

/-- Settles O53: a valid image is stored above the font and inside the address space. -/
theorem resetMeetsInvariant : Obligations.ResetMeetsInvariant := ⟨inv_reset, inv_resetWith⟩

/-- Settles O55, by induction over the schedule. -/
theorem everyReachableStateIsLegal : Obligations.EveryReachableStateIsLegal := by
  intro es t h
  obtain ⟨u, hu, hi, hsp, hwf, hfont⟩ := exists_runEvents_inv es inv_reset
  cases hu.symm.trans h
  exact ⟨hi, hsp, hwf, fun a => Memory.read_font t.mem a hfont⟩

/-- Settles O56, by induction over the schedule. -/
theorem noScheduleStopsTheModel : Obligations.NoScheduleStopsTheModel := by
  intro es
  obtain ⟨t, ht, -⟩ := exists_runEvents_inv es inv_reset
  exact ⟨t, ht⟩

end Sys2Proof
end

section
/-!
PROOF. The bounds on `pc` and on saved return addresses (R24, R130).
-/
namespace Sys2Proof

open Sys2Proof.Machine Sys2Proof.Safety

section
variable {s : State}

theorem toNat_advance_pc_le {n : Nat} (h : s.pc.toNat ≤ 0xFFE) (hn : 0x1000 ≤ n) :
    s.advance.pc.toNat ≤ n := by
  rw [State.advance_pc]
  bv_omega

theorem toNat_skipIf_pc_le (c : Bool) (h : s.pc.toNat ≤ 0xFFE) :
    (s.skipIf c).pc.toNat ≤ 0x10FE := by
  rw [State.skipIf_pc]
  split <;> bv_omega

theorem toNat_top_le (h : ∀ k : Fin 16, s.stack[k].toNat ≤ 0x1000) : s.top.toNat ≤ 0x1000 := by
  rw [State.top]
  by_cases hk : s.sp.toNat - 1 < 16
  · rw [Vector.getElem?_eq_getElem hk]
    exact h ⟨_, hk⟩
  · rw [Vector.getElem?_eq_none (by omega)]
    decide

/-- No target is above 0x10FE, which BNNN reaches, and no other `pc` is above 0x1002. -/
theorem effectOf_pc_le (i : Instr) (hpc : s.pc.toNat ≤ 0xFFE)
    (hstack : ∀ k : Fin 16, s.stack[k].toNat ≤ 0x1000) : (effectOf i s).pc.toNat ≤ 0x10FE := by
  have target (nnn : Addr) : (addrOperand nnn).toNat ≤ 0xFFF := by
    have := nnn.isLt
    rw [toNat_addrOperand]
    omega
  have next : s.advance.pc.toNat ≤ 0x10FE := toNat_advance_pc_le hpc (by decide)
  cases i with
  | ret => exact (toNat_top_le hstack).trans (by decide)
  | jp nnn | call nnn => exact (target nnn).trans (by decide)
  | jpV0 nnn =>
    have := nnn.isLt
    have := (s.reg 0x0#4).isLt
    change (s.indexedTarget nnn).toNat ≤ 0x10FE
    rw [State.toNat_indexedTarget]
    omega
  | seI | sneI | seR | sneR | skp | sknp => exact toNat_skipIf_pc_le _ hpc
  | ldKey x =>
    change (s.loadKey x).pc.toNat ≤ 0x10FE
    cases hp : s.pressed with
    | nil =>
      rw [State.loadKey_of_none x hp]
      omega
    | cons k ks =>
      rw [State.loadKey_of_some x hp]
      exact next
  | _ => exact next

/-- The one entry an effect writes is the return address of a call. -/
theorem effectOf_stack_le (i : Instr) (hpc : s.pc.toNat ≤ 0xFFE)
    (hstack : ∀ k : Fin 16, s.stack[k].toNat ≤ 0x1000) (k : Fin 16) :
    (effectOf i s).stack[k].toNat ≤ 0x1000 := by
  by_cases written : MayWrite i s (.stack k)
  · cases i with
    | call nnn =>
      have entry : (effectOf (.call nnn) s).stack[k] = _ :=
        s.push_stack_getElem (s.pc + 2#16) k.val k.isLt
      rw [entry]
      split
      · exact toNat_advance_pc_le hpc (by decide)
      · exact hstack k
    | _ => simp [MayWrite] at written
  · have same : (effectOf i s).stack[k] = s.stack[k] := changesOnly_effectOf i s (.stack k) written
    rw [same]
    exact hstack k

end

/-- Settles O58: an instruction runs only when it was fetched from at most 0xFFE. -/
theorem pcAndReturnAddressesStayBounded : Obligations.PcAndReturnAddressesStayBounded := by
  intro s t hpc hstack h
  obtain rfl | ⟨c, rfl⟩ | ⟨hfetch, rfl⟩ | ⟨hfetch, i, -, rfl⟩ := step_effect_cases h
  · exact ⟨hpc, hstack⟩
  · exact ⟨hpc, hstack⟩
  · exact ⟨toNat_advance_pc_le hfetch (by decide), hstack⟩
  · exact ⟨effectOf_pc_le i hfetch hstack, effectOf_stack_le i hfetch hstack⟩

end Sys2Proof
end

section
/-!
PROOF. No step reads the sound timer or the redraw flag (R28, R31): two states that differ in them
only stay so.
-/
namespace Sys2Proof

open Sys2Proof.Machine

/-- The state with other values of the two elements that no step reads. -/
def withUnread (s : State) (a : Byte) (r : Bool) : State := { s with st := a, redraw := r }

section
variable {i : Instr} {s t : State} (a : Byte) (r : Bool)

theorem checkOf_withUnread (i : Instr) (s : State) :
    checkOf i (withUnread s a r) = checkOf i s := by
  cases i <;> rfl

theorem reportInstr_withUnread (i : Instr) (s : State) :
    reportInstr i (withUnread s a r) = reportInstr i s := by
  cases i <;> rfl

theorem loadKey_withUnread (s : State) (x : RegIx) :
    (withUnread s a r).loadKey x = withUnread (s.loadKey x) a r := by
  cases h : s.pressed with
  | nil => rw [State.loadKey_of_none x h, State.loadKey_of_none (s := withUnread s a r) x h]
  | cons k ks =>
    rw [State.loadKey_of_some x h, State.loadKey_of_some (s := withUnread s a r) x h]
    rfl

/-- The effects agree in every other element. -/
theorem effectOf_withUnread (i : Instr) (s : State) :
    withUnread (effectOf i (withUnread s a r)) 0#8 false = withUnread (effectOf i s) 0#8 false := by
  cases i with
  | ldKey x =>
    change withUnread ((withUnread s a r).loadKey x) 0#8 false = _
    rw [loadKey_withUnread]
    rfl
  | _ => rfl

theorem exec_withUnread (h : exec i s = .next t) :
    ∃ u, exec i (withUnread s a r) = .next u ∧ withUnread u 0#8 false = withUnread t 0#8 false := by
  obtain ⟨legal, guarded⟩ := exec_eq_next.1 h
  obtain ⟨raised, hc, rfl⟩ | ⟨hc, rfl⟩ := (s.guarded_eq_next t _ _).1 guarded
  · refine ⟨(withUnread s a r).raise raised.cause, exec_eq_next.2 ⟨legal, ?_⟩, rfl⟩
    rw [checkOf_withUnread, hc, State.guarded_some]
  · refine ⟨effectOf i (withUnread s a r), exec_eq_next.2 ⟨legal, ?_⟩, effectOf_withUnread a r i s⟩
    rw [checkOf_withUnread, hc, State.guarded_none]

end

/-- Settles O59, by the cases of a step: the latch, the fetched word, the checks and the effects do
not depend on the two elements. -/
theorem soundAndRedrawAreNeverRead : Obligations.SoundAndRedrawAreNeverRead := by
  intro s t a r h
  change report (withUnread s a r) = _ ∧ ∃ u, step (withUnread s a r) = .next u ∧
    withUnread u 0#8 false = withUnread t 0#8 false
  obtain ⟨hf, hs, hr⟩ | ⟨hf, hw, hs, hr⟩ | ⟨hf, w, hw, hd, hs, hr⟩ | ⟨hf, w, i, hw, hd, hs, hr⟩ :=
    step_report_cases s
  · cases hs.symm.trans h
    exact ⟨(report_of_latched hf).trans hr.symm, _, step_of_latched hf, rfl⟩
  · cases hs.symm.trans h
    exact ⟨(report_of_fetch_none hf hw).trans hr.symm, _, step_of_fetch_none hf hw, rfl⟩
  · cases hs.symm.trans h
    exact ⟨(report_of_decode_none hf hw hd).trans hr.symm, _, step_of_decode_none hf hw hd, rfl⟩
  · obtain ⟨u, hu, same⟩ := exec_withUnread a r (hs.symm.trans h)
    exact ⟨((report_of_decode_some hf hw hd).trans (reportInstr_withUnread a r i s)).trans hr.symm,
      u, (step_of_decode_some (s := withUnread s a r) hf hw hd).trans hu, same⟩

end Sys2Proof
end

section
/-!
PROOF. The remaining statements: random and FX0A (`44_timers_keys_random.md`), the host's events
(`60_exceptions.md`), `Reset` and the end of a run (`70_reset_and_hazards.md`).
-/
namespace Sys2Proof

open Sys2Proof.Machine Sys2Proof.Safety

/-- Settles O43: the outcome writes the masked draw, counts it and advances. -/
theorem randomIsMasked : Obligations.RandomIsMasked := by
  intro x nn s
  have value : ((s.setReg x (s.drawRnd &&& nn)).drawn).advance.reg x = Config.rnd s.draws &&& nn :=
    (s.reg_setReg x x _).trans (if_pos rfl)
  refine ⟨decode_encode (.rnd x nn), _, rfl, fun j _ => ?_, ?_, rfl, rfl,
    changesOnly_drawnResult x _ (.inl rfl) (.inr (.inl rfl)) (.inr (.inr rfl)), rfl⟩
  · rw [value, BitVec.getLsbD_and]
  · rw [value, BitVec.and_assoc, BitVec.and_not_self]
    exact BitVec.and_zero

/-- Settles O45, by the two cases of the set of pressed keys. -/
theorem keyWaitLoadsAPressedKey : Obligations.KeyWaitLoadsAPressedKey := by
  refine ⟨fun x => decode_encode (.ldKey x), fun x s released => ?_, fun x s ⟨k, hk⟩ => ?_⟩
  · have hnone : s.pressed = [] := State.pressed_eq_nil.2 released
    exact ⟨(execLdKey_eq x).trans (congrArg _ (State.loadKey_of_none x hnone)),
      reportInstr_eq_waiting.2 ⟨⟨x, rfl⟩, hnone⟩⟩
  · have hsome : s.pressed ≠ [] := fun h =>
      Bool.false_ne_true ((State.pressed_eq_nil.1 h k).symm.trans hk)
    obtain ⟨j, js, hj⟩ := List.exists_cons_of_ne_nil hsome
    obtain ⟨hlt, hdown⟩ := (s.mem_pressed _).1 (hj ▸ s.drawKey_mem j js)
    refine ⟨_, (execLdKey_eq x).trans (congrArg _ (State.loadKey_of_some x hj)),
      ⟨⟨s.drawKey j js, hlt⟩, (s.keyDown_eq _ hlt).symm.trans hdown, ?_⟩, rfl,
      changesOnly_drawnResult x _ (.inl rfl) (.inr (.inl rfl)) (.inr (.inr rfl)),
      reportInstr_eq_completed.2 ⟨rfl, fun _ _ => hsome⟩⟩
    rw [State.reg_advance, State.reg_drawn, State.reg_setReg, if_pos rfl, BitVec.toNat_ofNat]
    exact Nat.mod_eq_of_lt (by omega)

theorem changesOnly_keyWrite (s : State) (k : Fin 16) (b : Bool) :
    ChangesOnly s (s.keyWrite k b) (fun e => e = .key k) := by
  intro e he
  cases e with
  | key j =>
    have hne : k.val ≠ j.val := fun h => he (congrArg Elem.key (Fin.ext h.symm))
    exact Vector.getElem_set_ne k.isLt j.isLt hne
  | _ => rfl

/-- Settles O48: each event is one write or none. -/
theorem hostEventsTouchOnlyTheirElement : Obligations.HostEventsTouchOnlyTheirElement := fun s =>
  ⟨fun k b => ⟨s.keyWrite k b, rfl, Vector.getElem_set_self _, changesOnly_keyWrite s k b⟩,
    ⟨s.redrawAck, rfl, rfl, changesOnly_setRedraw false rfl⟩, ⟨rfl, rfl⟩, ⟨rfl, rfl⟩⟩

/-- No effect of an instruction writes the keyboard latch (R30). -/
theorem effectOf_key (i : Instr) (s : State) : (effectOf i s).key = s.key := by
  apply Vector.ext
  intro k hk
  exact changesOnly_effectOf i s (.key ⟨k, hk⟩) (by cases i <;> simp [MayWrite])

theorem step_key {s t : State} (h : step s = .next t) : t.key = s.key := by
  obtain rfl | ⟨c, rfl⟩ | ⟨-, rfl⟩ | ⟨-, i, -, rfl⟩ := step_effect_cases h
  · rfl
  · rfl
  · rfl
  · exact effectOf_key i s

/-- Settles O49, event by event. -/
theorem onlyKeyWriteChangesKeys : Obligations.OnlyKeyWriteChangesKeys := by
  intro e s t h hne
  cases e with
  | keyWrite k b => exact ⟨k, b, rfl⟩
  | step => exact absurd (step_key h) hne
  | reset | tick | redrawAck | displayRead | soundObserve =>
    cases h
    exact absurd rfl hne

/-- Memory after a `Reset` with a valid image (R36, R250). -/
theorem read_resetWith (s : State) {rom : List Byte} (h : rom.length ≤ 3584) (a : Nat) :
    Memory.read (s.resetWith (some rom)).mem a =
      if 0x200 ≤ a ∧ a < 0x200 + rom.length then rom.getD (a - 0x200) 0
      else Memory.unlisted a := by
  have valid : (validRom (some rom)).getD [] = rom := by simp [validRom, h]
  change Memory.read (Memory.store [] 0x200 _) a = _
  rw [valid, Memory.read_store]
  rfl

/-- Settles O50: memory by `read_resetWith`, the other elements by the definition of `Reset`. -/
theorem resetLoadsTheImage : Obligations.ResetLoadsTheImage := by
  intro s rom h
  have outside (a : Nat) (ha : ¬ (0x200 ≤ a ∧ a < 0x200 + rom.length)) :
      Memory.read (s.resetWith (some rom)).mem a = Memory.unlisted a :=
    (read_resetWith s h a).trans (if_neg ha)
  have zero (a : Nat) (ha : 0x050 ≤ a) : Memory.unlisted a = 0#8 := if_neg (by omega)
  have fault : (s.resetWith (some rom)).fault = 0#3 := by simp [State.resetWith, validRom, h]
  refine ⟨s.resetWith (some rom), rfl, fun a ha => ?_, fun a h1 h2 => ?_, fun j hj => ?_,
    fun a h1 h2 => ?_, fun k => Vector.getElem_replicate _, rfl, rfl,
    fun k => Vector.getElem_replicate _, rfl, rfl, rfl, fun r c _ _ => Display.cell_blank r c, rfl,
    rfl, fault, rfl⟩
  · exact (outside a (by omega)).trans (if_pos ha)
  · exact (outside a (by omega)).trans (zero a h1)
  · rw [read_resetWith s h, if_pos (by omega), Nat.add_sub_cancel_left,
      List.getD_eq_getElem _ _ hj]
  · exact (outside a (by omega)).trans (zero a (by omega))

/-- Settles O52: the two states agree element by element. -/
theorem launchStateIsAReset : Obligations.LaunchStateIsAReset := fun s =>
  ⟨s.resetWith (some []), rfl, rfl⟩

/-- Settles O60: the jump writes to `pc` the address it has. -/
theorem selfJumpIsAFixedPoint : Obligations.SelfJumpIsAFixedPoint := by
  rintro e s ⟨hf, hpc, hw⟩
  have hd : decode (0x1#4 ++ e) = some (.jp e) := decode_encode (.jp e)
  have same : s.setPc (addrOperand e) = s := by
    rw [addrOperand, ← hpc]
    rfl
  exact ⟨(step_of_decode_some hf hw hd).trans (congrArg _ same), report_of_decode_some hf hw hd⟩

end Sys2Proof
end
